-- ==== Sys2Proof/Word.lean ====
section
/-! DEFINITION. The word types: 32-bit registers (00_scope.md R6, R11), bytes, and the 4-bit
context number of a command word (30_encoding.md R71). -/

namespace Sys2Proof

/-- "All register values, table entries and results are 32-bit unsigned integers" (R6). -/
abbrev Word := BitVec 32

/-- An input byte or a table index, 0 to 255 (R74). -/
abbrev Byte := BitVec 8

/-- A digest context number as the CTX field holds it, 0 to 15 (R72). -/
abbrev CtxNum := BitVec 4

end Sys2Proof
end

