-- ==== Sys2Proof/Syntax.lean ====
section
/-! DEFINITION. The commands, one constructor per row of spec/opcode_table.json (30_encoding.md R77). -/

namespace Sys2Proof

/-- A command with its operands assembled (R72 to R74). `c` is the context number, `b` the immediate
byte, `i` the table index. The byte count `n` of UPDN is the assembler's 1 to 4 (R81), not the
field N = n - 1 (R73); WellFormed bounds it. -/
inductive Instr where
  | nop
  | build
  | dinit (c : CtxNum)
  | dinitc (c : CtxNum)
  | upd (c : CtxNum) (b : Byte)
  | updn (c : CtxNum) (n : Nat)
  | updv (c : CtxNum)
  | fin (c : CtxNum)
  | rdtbl (i : Byte)
  | rdreg (c : CtxNum)
  | ldreg (c : CtxNum)
  deriving DecidableEq, Repr

end Sys2Proof
end

