-- ==== Sys2Proof/WellFormed.lean ====
section
/-! DEFINITION. What the assembler refuses (30_encoding.md R81): "c > 15, b or i > 255, and n outside
1 to 4". The first two hold by the operands' types; the count of UPDN is the check. -/

namespace Sys2Proof

/-- The command is one the encoding admits (R81; R73: a count of 0 has no encoding). -/
def Instr.wf : Instr → Bool
  | .nop => true
  | .build => true
  | .dinit _ => true
  | .dinitc _ => true
  | .upd _ _ => true
  | .updn _ n => decide (1 ≤ n) && decide (n ≤ 4)
  | .updv _ => true
  | .fin _ => true
  | .rdtbl _ => true
  | .rdreg _ => true
  | .ldreg _ => true

end Sys2Proof
end

