-- ==== Sys2Proof/Decode.lean ====
section
/-! DEFINITION. Command words (30_encoding.md): the decoder of R80, total on every word, then the encoder
of R81, the opcode rows of R77, and the assembler's operand checks (R81). -/

namespace Sys2Proof

/-! ## Bytes of a word (20_memory.md R54, R56) -/

/-- Byte k of a word: "bits [8k+7:8k]" (R54; the lanes of ARG in R56). -/
def lane (w : Word) (k : Nat) : Byte := w.extractLsb' (8 * k) 8

/-- The word whose bytes at increasing addresses are b0, b1, b2, b3 (R54: little-endian). -/
def wordOfBytes (b0 b1 b2 b3 : Byte) : Word :=
  b0.setWidth 32 ||| b1.setWidth 32 <<< 8 ||| b2.setWidth 32 <<< 16 ||| b3.setWidth 32 <<< 24

/-! ## The decoder -/

/-- Why a word is no command. The block reports each of them as ILLEGAL_CMD alone (60_exceptions.md
R200); the names are the model's (log 14). -/
inductive Illegal where
  /-- OPC 0xB to 0xF (R78) -/
  | reservedOpcode
  /-- a bit of RSV is set (R75) -/
  | reservedBits
  /-- a field the opcode does not use is not 0 (R76) -/
  | unusedField
  /-- not the four bytes of one word (R70); raised by decodeBytes only, never by a bus write -/
  | notOneWord
  deriving DecidableEq, Repr

/-- The fields an opcode uses: the "uses" column of R77. -/
structure Uses where
  ctx : Bool
  n : Bool
  imm8 : Bool
  deriving DecidableEq, Repr

/-- USES[opc] (R77, R80). -/
def uses (opc : Nat) : Uses :=
  match opc with
  | 0x0 => ⟨false, false, false⟩
  | 0x1 => ⟨false, false, false⟩
  | 0x4 => ⟨true, false, true⟩
  | 0x5 => ⟨true, true, false⟩
  | 0x8 => ⟨false, false, true⟩
  | _ => ⟨true, false, false⟩

/-- MNEMONIC[opc] with its operands (R77, R80); none for a reserved opcode (R78). -/
def commandOf (opc : Nat) (c : CtxNum) (n : Nat) (imm : Byte) : Option Instr :=
  match opc with
  | 0x0 => some .nop
  | 0x1 => some .build
  | 0x2 => some (.dinit c)
  | 0x3 => some (.dinitc c)
  | 0x4 => some (.upd c imm)
  | 0x5 => some (.updn c n)
  | 0x6 => some (.updv c)
  | 0x7 => some (.fin c)
  | 0x8 => some (.rdtbl imm)
  | 0x9 => some (.rdreg c)
  | 0xA => some (.ldreg c)
  | _ => none

/-! The fields of CMD32 (R71). -/

def opcField (w : Word) : BitVec 4 := w.extractLsb' 28 4
def ctxField (w : Word) : CtxNum := w.extractLsb' 24 4
def rsvField (w : Word) : BitVec 14 := w.extractLsb' 10 14
def nField (w : Word) : BitVec 2 := w.extractLsb' 8 2
def imm8Field (w : Word) : Byte := w.extractLsb' 0 8

/-- decode(w) as R80's pseudocode has it; an error stands for ILLEGAL. -/
def decode (w : Word) : Except Illegal Instr :=
  if 0xB ≤ (opcField w).toNat then .error .reservedOpcode
  else if rsvField w ≠ 0 then .error .reservedBits
  else if !(uses (opcField w).toNat).ctx && ctxField w != 0 then .error .unusedField
  else if !(uses (opcField w).toNat).n && nField w != 0 then .error .unusedField
  else if !(uses (opcField w).toNat).imm8 && imm8Field w != 0 then .error .unusedField
  else
    match commandOf (opcField w).toNat (ctxField w) ((nField w).toNat + 1) (imm8Field w) with
    | some i => .ok i
    | none => .error .reservedOpcode

/-- Decoding of bytes at increasing addresses: one command is one 32-bit word (R70) in little-endian
order (R54). -/
def decodeBytes : List Byte → Except Illegal Instr
  | [b0, b1, b2, b3] => decode (wordOfBytes b0 b1 b2 b3)
  | _ => .error .notOneWord

/-- The command word of nbits bits w, every bit above nbits 0. -/
def tableWord (nbits w : Nat) : Word := BitVec.ofNat 32 (w % 2 ^ nbits)

/-- The command the decoder reads from a word numbered as spec/opcode_table.json numbers it. The word
is laid out in its byte order and given to decodeBytes. Every command is 32 bits (R70). -/
def decodeTableWord (nbits w : Nat) : Option Instr :=
  if nbits ≤ 32 then
    let v := tableWord nbits w
    match decodeBytes [lane v 0, lane v 1, lane v 2, lane v 3] with
    | .ok i => some i
    | .error _ => none
  else none

/-! ## The encoder -/

/-- `c << 24` of R81. -/
def ctxBits (c : CtxNum) : Word := c.setWidth 32 <<< 24

/-- The command word of a well-formed command (R81). -/
def encode : Instr → Word
  | .nop => 0x00000000#32
  | .build => 0x10000000#32
  | .dinit c => 0x20000000#32 ||| ctxBits c
  | .dinitc c => 0x30000000#32 ||| ctxBits c
  | .upd c b => 0x40000000#32 ||| ctxBits c ||| b.setWidth 32
  | .updn c n => 0x50000000#32 ||| ctxBits c ||| BitVec.ofNat 32 (n - 1) <<< 8
  | .updv c => 0x60000000#32 ||| ctxBits c
  | .fin c => 0x70000000#32 ||| ctxBits c
  | .rdtbl i => 0x80000000#32 ||| i.setWidth 32
  | .rdreg c => 0x90000000#32 ||| ctxBits c
  | .ldreg c => 0xA0000000#32 ||| ctxBits c

/-! ## Opcode rows and the assembler -/

/-- The mnemonics of R77. -/
inductive Mnemonic where
  | nop | build | dinit | dinitc | upd | updn | updv | fin | rdtbl | rdreg | ldreg
  deriving DecidableEq, Repr

/-- The mnemonic of a command. -/
def Instr.mnemonic : Instr → Mnemonic
  | .nop => .nop
  | .build => .build
  | .dinit _ => .dinit
  | .dinitc _ => .dinitc
  | .upd _ _ => .upd
  | .updn _ _ => .updn
  | .updv _ => .updv
  | .fin _ => .fin
  | .rdtbl _ => .rdtbl
  | .rdreg _ => .rdreg
  | .ldreg _ => .ldreg

/-- One row of the opcode map: the word w is the row's when `(w AND mask) = match` (R77). -/
structure Row where
  mnemonic : Mnemonic
  pattern : Word
  mask : Word
  deriving DecidableEq, Repr

/-- The match and mask columns of R77 (and of spec/opcode_table.json). -/
def opcodeRows : List Row := [
  ⟨.nop, 0x00000000, 0xFFFFFFFF⟩,
  ⟨.build, 0x10000000, 0xFFFFFFFF⟩,
  ⟨.dinit, 0x20000000, 0xF0FFFFFF⟩,
  ⟨.dinitc, 0x30000000, 0xF0FFFFFF⟩,
  ⟨.upd, 0x40000000, 0xF0FFFF00⟩,
  ⟨.updn, 0x50000000, 0xF0FFFCFF⟩,
  ⟨.updv, 0x60000000, 0xF0FFFFFF⟩,
  ⟨.fin, 0x70000000, 0xF0FFFFFF⟩,
  ⟨.rdtbl, 0x80000000, 0xFFFFFF00⟩,
  ⟨.rdreg, 0x90000000, 0xF0FFFFFF⟩,
  ⟨.ldreg, 0xA0000000, 0xF0FFFFFF⟩]

/-- The word is one of the row's. -/
def Row.matches (r : Row) (w : Word) : Bool := w &&& r.mask == r.pattern

/-- The command of an assembler line, its operands already read as numbers (R81). None where the
operands do not fit the mnemonic or "An assembler refuses c > 15, b or i > 255, and n outside 1 to 4". -/
def assemble (m : Mnemonic) (operands : List Nat) : Option Instr :=
  let onCtx (mk : CtxNum → Instr) : Option Instr :=
    match operands with
    | [c] => if c ≤ 15 then some (mk (BitVec.ofNat 4 c)) else none
    | _ => none
  match m with
  | .nop => if operands = [] then some .nop else none
  | .build => if operands = [] then some .build else none
  | .dinit => onCtx .dinit
  | .dinitc => onCtx .dinitc
  | .upd =>
    match operands with
    | [c, b] =>
      if c ≤ 15 ∧ b ≤ 255 then some (.upd (BitVec.ofNat 4 c) (BitVec.ofNat 8 b)) else none
    | _ => none
  | .updn =>
    match operands with
    | [c, n] => if c ≤ 15 ∧ 1 ≤ n ∧ n ≤ 4 then some (.updn (BitVec.ofNat 4 c) n) else none
    | _ => none
  | .updv => onCtx .updv
  | .fin => onCtx .fin
  | .rdtbl =>
    match operands with
    | [i] => if i ≤ 255 then some (.rdtbl (BitVec.ofNat 8 i)) else none
    | _ => none
  | .rdreg => onCtx .rdreg
  | .ldreg => onCtx .ldreg

end Sys2Proof
end

