-- ==== Sys2Proof/Config.lean ====
section
/-! DEFINITION. The parameters of one instance of the block (00_scope.md R6 to R10; 10_state.md R40).
NW = 32 is fixed by the types. N_CTX, VALIDATE and BASE are carried in State as a field no step
changes, so every statement about every state is about every instance (log 1). -/

namespace Sys2Proof

/-- The byte validation strategy, "selected at build configuration time" (R9). -/
inductive Validate where
  /-- "no-op validator on general-purpose platforms" (VALIDATE = NONE) -/
  | off
  /-- "active bounds-check-and-sentinel strategy on restricted ones" (VALIDATE = ACTIVE) -/
  | active
  deriving DecidableEq, Repr

/-- The instance parameters. Both bounds hold by construction: N_CTX is 1 to 16 (R8) because PARAM
holds N_CTX - 1 in four bits (R20), and BASE is a multiple of 0x40 (20_memory.md R50). -/
structure Params where
  /-- N_CTX - 1, 0 to 15 -/
  lastCtx : Fin 16
  /-- VALIDATE -/
  validate : Validate
  /-- BASE / 0x40 -/
  window : Nat
  deriving DecidableEq, Repr

/-- N_CTX, "an integer from 1 to 16" (R8). -/
def Params.nCtx (p : Params) : Nat := p.lastCtx.val + 1

/-- BASE, the bus address of the register window (R10, R50). -/
def Params.base (p : Params) : Nat := 0x40 * p.window

/-- The instance State.reset starts from. DESIGN CHOICE (log 2, unsafe): N_CTX = 4 and VALIDATE = NONE,
what 95_test_vectors.md assumes "unless a vector says otherwise", and BASE = 0. -/
def Config.params : Params := { lastCtx := 3, validate := .off, window := 0 }

end Sys2Proof
end

