-- ==== Sys2Proof/Machine/State.lean ====
section
/-! DEFINITION. The state of the block (10_state.md) and of the host's run (70_reset_and_hazards.md
R244, R245), the ways a step can stop, and the state after reset (R231). -/

namespace Sys2Proof.Machine

/-- Why a step stops with a fault. -/
inductive Fault where
  /-- Raised by step for an access whose address is not BASE to BASE + 0x3F: the block decodes one
  window (20_memory.md R50), so such an access is none of its accesses and the spec says nothing of
  its response. Safe: the model stops (log 7). -/
  | outsideWindow
  deriving DecidableEq, Repr

/-- Why a step has no meaning to give. -/
inductive Refusal where
  /-- Raised by an arm of exec for a command without a meaning. No arm does. Safe: the model stops. -/
  | notModelled (mnemonic : String)
  /-- Raised by step when no input is left: "A run ends when the sequence is exhausted" (R244), and
  its end does not say "that the hardware is idle" (R245). Safe: the model stops (log 5). -/
  | sequenceExhausted
  deriving DecidableEq, Repr

/-- The command error codes of 60_exceptions.md R200 (STATUS.ERRCODE). -/
inductive ErrCode where
  | none | illegalCmd | noEngine | badWidth | badCtx | notLive
  deriving DecidableEq, Repr

/-- "256 native-width integers, one entry per possible byte value" (R32). -/
abbrev Table := Vector Word 256

/-- What a live context holds: REG[c] (R34) and POISON[c] (R36). A context that is not live holds no
digest, so REG[c] then has no value (R41) and POISON[c] is 0 (R38). -/
structure Digest where
  reg : Word
  poison : Bool
  deriving DecidableEq, Repr

/-- One bus access of the host: its bus address, its size in bits, and the 32-bit value of a write.
The data of a write of another size is never looked at, since such a write is a bus error (R52). -/
inductive Access where
  | read (addr bits : Nat)
  | write (addr bits : Nat) (v : Word)
  deriving DecidableEq, Repr

/-- What the block can receive next: an access, or the reset input (R230). -/
inductive Input where
  | access (a : Access)
  | reset
  deriving DecidableEq, Repr

/-- The bus response of one access (R170, R206). -/
inductive Response where
  /-- a legal read returned this value -/
  | data (v : Word)
  /-- a legal write completed; a command error does not change this (R178) -/
  | ack
  /-- an error response (R206) -/
  | busError
  deriving DecidableEq, Repr

/-- The block's registers, its table and contexts, the instance's parameters, and the host's run. -/
structure State where
  /-- N_CTX, VALIDATE, BASE; no step changes them (R40) -/
  params : Params
  /-- CTRL[1:0] (R21) -/
  ctrl : BitVec 2
  /-- WIDTH[5:0] (R23) -/
  width : BitVec 6
  /-- POLY (R24) -/
  poly : Word
  /-- INIT (R25) -/
  init : Word
  /-- XOROUT (R26) -/
  xorout : Word
  /-- ARG (R27) -/
  arg : Word
  /-- RESULT (R29) -/
  result : Word
  /-- STATUS.ERR (R30) -/
  err : Bool
  /-- STATUS.ERRCODE (R30, R200) -/
  errCode : ErrCode
  /-- TABLE (R32), present exactly while TABLE_VALID = 1; otherwise it has no value (R41) -/
  table : Option Table
  /-- REG, LIVE and POISON (R34 to R36), a digest exactly while LIVE[c] = 1; contexts N_CTX to 15 do
  not exist and stay without one -/
  ctxs : Vector (Option Digest) 16
  /-- the inputs not yet received, in the order the block receives them (R60, R244) -/
  pending : List Input
  /-- "the index of the next access in the sequence" (R245) -/
  pc : Nat
  /-- the responses so far, oldest first (R244) -/
  trace : List Response
  deriving DecidableEq, Repr

/-- The state after reset of an instance (R231), no access received yet. -/
def State.resetFor (p : Params) : State where
  params := p
  ctrl := 0
  width := 0
  poly := 0
  init := 0
  xorout := 0
  arg := 0
  result := 0
  err := false
  errCode := .none
  table := none
  ctxs := Vector.replicate 16 none
  pending := []
  pc := 0
  trace := []

/-- The state after reset of the instance of Config.params (log 2). -/
def State.reset : State := State.resetFor Config.params

end Sys2Proof.Machine
end

