-- ==== Sys2Proof/Machine/Operands.lean ====
section
/-! DEFINITION. What a command reads: the configuration shorthands of 00_scope.md R14, the context a
command selects, and the bytes of ARG (20_memory.md R56). -/

namespace Sys2Proof.Machine

/-- `W = WIDTH[5:0]` (R14). -/
def State.W (s : State) : Nat := s.width.toNat

/-- `REFIN = CTRL[0] = 1` (R14, R21). -/
def State.refin (s : State) : Bool := s.ctrl.getLsbD 0

/-- `REFOUT = CTRL[1] = 1` (R14, R21). -/
def State.refout (s : State) : Bool := s.ctrl.getLsbD 1

/-- TABLE_VALID (R30): a table is present. -/
def State.tableValid (s : State) : Bool := s.table.isSome

/-- The digest of context c, none while LIVE[c] = 0. -/
def State.ctx (s : State) (c : CtxNum) : Option Digest := s.ctxs[c.toNat]'c.isLt

/-- LIVE[c] (R35). -/
def State.live (s : State) (c : CtxNum) : Bool := (s.ctx c).isSome

/-- POISON[c] (R36). -/
def State.poison (s : State) (c : CtxNum) : Bool :=
  match s.ctx c with
  | some d => d.poison
  | none => false

/-- REG[c] (R34); none where it holds no value (R41). -/
def State.reg (s : State) (c : CtxNum) : Option Word := (s.ctx c).map Digest.reg

/-- CTX names a context of this instance: not `c >= N_CTX` (30_encoding.md R72). -/
def State.ctxExists (s : State) (c : CtxNum) : Bool := decide (c.toNat < s.params.nCtx)

/-- `TABLE[i]` (R32). -/
def Table.entryAt (t : Table) (i : Byte) : Word := t[i.toNat]'i.isLt

/-- The first n bytes of ARG, lane 0 first (R56, 41_engine.md R135). ARG has four lanes, so a count
above 4, which no word encodes (R73), feeds four (log 13). -/
def argBytes (arg : Word) (n : Nat) : List Byte :=
  [lane arg 0, lane arg 1, lane arg 2, lane arg 3].take n

end Sys2Proof.Machine
end

