-- ==== Sys2Proof/Machine/Crc.lean ====
section
/-! DEFINITION. The pure functions: polynomial expansion and table entries (40_table_builder.md R100,
R101), init, byte step, finalize and validation (41_engine.md R120 to R124). `W` is the checksum width;
the shift S of 00_scope.md R14 is 32 - W. -/

namespace Sys2Proof.Machine

/-- "bit k of the result is bit 31 - k of a" (R12). -/
def rev32 (a : Word) : Word := a.reverse

/-- The alignment shift S = 32 - W (R14). With W outside 1 to 32 no engine exists and no rule reads S;
the subtraction then stops at 0 (log 13). -/
def alignShift (W : Nat) : Nat := 32 - W

/-- polyx(p, W, refin) (R100). -/
def polyx (p : Word) (W : Nat) (refin : Bool) : Word :=
  if refin then rev32 p >>> alignShift W else p <<< alignShift W

/-- One shift/XOR step of R101; the bit the shift drops is tested before the shift. -/
def entryStep (P : Word) (refin : Bool) (v : Word) : Word :=
  if refin then (v >>> 1) ^^^ (if v.getLsbD 0 then P else 0)
  else (v <<< 1) ^^^ (if v.getLsbD 31 then P else 0)

/-- n steps of R101. -/
def entrySteps (P : Word) (refin : Bool) : Nat → Word → Word
  | 0, v => v
  | n + 1, v => entrySteps P refin n (entryStep P refin v)

/-- The byte where the steps of R101 begin: "right-aligned", or in bits 31:24. -/
def entrySeed (refin : Bool) (i : Byte) : Word :=
  if refin then i.setWidth 32 else i.setWidth 32 <<< 24

/-- entry(P, refin, i) (R101). -/
def entry (P : Word) (refin : Bool) (i : Byte) : Word :=
  entrySteps P refin 8 (entrySeed refin i)

/-- The table BUILD fills: TABLE[i] <- entry(P, refin, i) for i in 0 .. 255 (R102). -/
def tableOf (P : Word) (refin : Bool) : Table :=
  ⟨((List.range 256).map fun i => entry P refin (BitVec.ofNat 8 i)).toArray, by simp⟩

/-- init_fn(v) (R120). -/
def initFn (W : Nat) (refin : Bool) (v : Word) : Word :=
  if refin then rev32 v >>> alignShift W else v <<< alignShift W

/-- The low 8 bits of a word, as a table index: `(...) AND 0xFF` (R121). -/
def lowByte (v : Word) : Byte := (v &&& 0xFF#32).setWidth 8

/-- step(r, b) (R121, the form 90_conflicts.md C1 corrects). -/
def crcStep (t : Table) (refin : Bool) (r : Word) (b : Byte) : Word :=
  if refin then t.entryAt (lowByte (r ^^^ b.setWidth 32)) ^^^ (r >>> 8)
  else t.entryAt (lowByte ((r >>> 24) ^^^ b.setWidth 32)) ^^^ (r <<< 8)

/-- update(r, bytes) (R123): "each byte in sequence order". -/
def updateBytes (t : Table) (refin : Bool) (r : Word) (bs : List Byte) : Word :=
  bs.foldl (crcStep t refin) r

/-- fin_fn(r) (R122); XOROUT is applied in all 32 bits (90_conflicts.md C4). -/
def finFn (W : Nat) (refin refout : Bool) (xorout r : Word) : Word :=
  let r := if refin != refout then rev32 r else r
  let r := if refout then r else r >>> alignShift W
  r ^^^ xorout

/-- validate(v) (R124): some b is ACCEPT(b), none is REJECT. -/
def validateByte (strategy : Validate) (v : Word) : Option Byte :=
  match strategy with
  | .off => some (v.setWidth 8)
  | .active => if v.toNat ≤ 255 then some (v.setWidth 8) else none

end Sys2Proof.Machine
end

