-- ==== Sys2Proof/Machine/Flags.lean ====
section
/-! DEFINITION. STATUS as software reads it (10_state.md R30, 42_register_access.md R182). The block
has no arithmetic flags (R31). -/

namespace Sys2Proof.Machine

/-- The number of an error code (60_exceptions.md R200). -/
def ErrCode.code : ErrCode → BitVec 4
  | .none => 0
  | .illegalCmd => 1
  | .noEngine => 2
  | .badWidth => 3
  | .badCtx => 4
  | .notLive => 5

/-- A Boolean as a 32-bit 0 or 1. -/
def bit (b : Bool) : Word := if b then 1 else 0

/-- The LIVE bits of contexts 0 to n - 1 at STATUS[16 + c] (R182). -/
def liveBits (s : State) : Nat → Word
  | 0 => 0
  | n + 1 => liveBits s n ||| bit (s.live (BitVec.ofNat 4 n)) <<< (16 + n)

/-- The value RD STATUS returns (R182). -/
def statusWord (s : State) : Word :=
  bit s.tableValid ||| bit s.err <<< 1 ||| s.errCode.code.setWidth 32 <<< 4
    ||| liveBits s s.params.nCtx

end Sys2Proof.Machine
end

