-- ==== Sys2Proof/Machine/Ops.lean ====
section
/-! DEFINITION. The operations the commands and accesses share: recording a command error (the block's
"trap entry", 60_exceptions.md R203) and clearing the record (R205), the checks of R201, writing a
context, destroying the engine (42_register_access.md R171), answering an access, and reset (R230). -/

namespace Sys2Proof.Machine

/-- What exec and step answer. -/
abbrev Result := Host.Outcome State Fault Refusal

/-! ## Command errors -/

/-- `raise CmdError(code)` (R203): "if ERR = 0: ERRCODE <- code", then "ERR <- 1". -/
def raiseCmdError (code : ErrCode) (s : State) : State :=
  { s with errCode := if s.err then s.errCode else code, err := true }

/-- The return from an error (R205, R181): ERR and ERRCODE become 0. -/
def clearError (s : State) : State := { s with errCode := .none, err := false }

/-! ## The checks of R201, in its order: engine, context number, live digest -/

/-- Step 4 of R201: NO_ENGINE unless TABLE_VALID = 1. -/
def withEngine (s : State) (k : Table → Result) : Result :=
  match s.table with
  | none => .next (raiseCmdError .noEngine s)
  | some t => k t

/-- Steps 4 and 5 of R201: then BAD_CTX when CTX >= N_CTX. -/
def withCtx (s : State) (c : CtxNum) (k : Table → Result) : Result :=
  withEngine s fun t => if s.ctxExists c then k t else .next (raiseCmdError .badCtx s)

/-- Steps 4 to 6 of R201: then NOT_LIVE when LIVE[CTX] = 0. -/
def withDigest (s : State) (c : CtxNum) (k : Table → Digest → Result) : Result :=
  withCtx s c fun t =>
    match s.ctx c with
    | none => .next (raiseCmdError .notLive s)
    | some d => k t d

/-! ## Contexts and the engine -/

/-- Context c holds the digest d, or none. -/
def State.setCtx (s : State) (c : CtxNum) (d : Option Digest) : State :=
  { s with ctxs := s.ctxs.set c.toNat d c.isLt }

/-- REG[c] <- r, LIVE[c] <- 1, POISON[c] <- 0: the effect of DINIT, DINITC and LDREG (R131 to R133). -/
def createDigest (s : State) (c : CtxNum) (r : Word) : State :=
  s.setCtx c (some { reg := r, poison := false })

/-- destroy_engine() (R171): TABLE_VALID, every LIVE and every POISON become 0; TABLE and REG hold no
value afterwards (R41). -/
def destroyEngine (s : State) : State :=
  { s with table := none, ctxs := Vector.replicate 16 none }

/-! ## Accesses and inputs -/

/-- The response of the access being served. -/
def State.respond (s : State) (r : Response) : State := { s with trace := s.trace ++ [r] }

/-- How far an input moves the index of the next access: it "advances by one per access" (R245), and the
reset input is no access (R230). -/
def Input.accesses : Input → Nat
  | .access _ => 1
  | .reset => 0

/-- The next input e is received, rest follows it: the index moves on when e is an access (R245, R39). -/
def State.received (s : State) (e : Input) (rest : List Input) : State :=
  { s with pending := rest, pc := s.pc + e.accesses }

/-- The reset input (R230, R231): the block's reset state; the host's sequence and what it has
observed are the host's and stay (log 9). -/
def assertReset (s : State) : State :=
  { State.resetFor s.params with pending := s.pending, pc := s.pc, trace := s.trace }

end Sys2Proof.Machine
end

