-- ==== Sys2Proof/Machine/Engine.lean ====
section
/-! DEFINITION. The engine's commands (41_engine.md R130 to R138). -/

namespace Sys2Proof.Machine

/-- The bytes bs are fed to context c; a poisoned context is accepted and skipped (R125, R134, R135). -/
def feedBytes (c : CtxNum) (bs : List Byte) (s : State) : Result :=
  withDigest s c fun t d =>
    .next (if d.poison then s
      else s.setCtx c (some { d with reg := updateBytes t s.refin d.reg bs }))

/-- NOP (R130). -/
def execNop (s : State) : Result := .next s

/-- DINIT c (R131): a digest from INIT. -/
def execDinit (c : CtxNum) (s : State) : Result :=
  withCtx s c fun _ => .next (createDigest s c (initFn s.W s.refin s.init))

/-- DINITC c (R132): a digest from ARG, through init_fn as INIT is. -/
def execDinitc (c : CtxNum) (s : State) : Result :=
  withCtx s c fun _ => .next (createDigest s c (initFn s.W s.refin s.arg))

/-- LDREG c (R133): ARG is taken as already internalized. -/
def execLdreg (c : CtxNum) (s : State) : Result :=
  withCtx s c fun _ => .next (createDigest s c s.arg)

/-- UPD c, b (R134). -/
def execUpd (c : CtxNum) (b : Byte) (s : State) : Result := feedBytes c [b] s

/-- UPDN c, n (R135). -/
def execUpdn (c : CtxNum) (n : Nat) (s : State) : Result := feedBytes c (argBytes s.arg n) s

/-- UPDV c (R136): one byte of ARG through the validation strategy; a rejected value poisons the
context, leaves REG[c] as it was and records no error (R125). -/
def execUpdv (c : CtxNum) (s : State) : Result :=
  withDigest s c fun t d =>
    .next (if d.poison then s
      else match validateByte s.params.validate s.arg with
        | some b => s.setCtx c (some { d with reg := crcStep t s.refin d.reg b })
        | none => s.setCtx c (some { d with poison := true }))

/-- FIN c (R137): the checksum, or the sentinel 0, to RESULT; the digest is consumed. -/
def execFin (c : CtxNum) (s : State) : Result :=
  withDigest s c fun _ d =>
    .next (({ s with
      result := if d.poison then 0 else finFn s.W s.refin s.refout s.xorout d.reg } : State).setCtx
        c none)

/-- RDREG c (R138): the internalized register, or the sentinel 0, to RESULT. -/
def execRdreg (c : CtxNum) (s : State) : Result :=
  withDigest s c fun _ d => .next { s with result := if d.poison then 0 else d.reg }

end Sys2Proof.Machine
end

