-- ==== Sys2Proof/Machine/TableBuilder.lean ====
section
/-! DEFINITION. The table builder's commands, BUILD and RDTBL (40_table_builder.md R102, R103). -/

namespace Sys2Proof.Machine

/-- BUILD (R102): BAD_WIDTH unless 1 <= W <= 32; contexts and RESULT are unchanged. -/
def execBuild (s : State) : Result :=
  if 1 ≤ s.W ∧ s.W ≤ 32 then
    .next { s with table := some (tableOf (polyx s.poly s.W s.refin) s.refin) }
  else .next (raiseCmdError .badWidth s)

/-- RDTBL i (R103): RESULT <- TABLE[i]. -/
def execRdtbl (i : Byte) (s : State) : Result :=
  withEngine s fun t => .next { s with result := t.entryAt i }

end Sys2Proof.Machine
end

