-- ==== Sys2Proof/Machine/Dispatch.lean ====
section
/-! DEFINITION. One arm per command (60_exceptions.md R201, step 7: "execute the command's rule"). -/

namespace Sys2Proof.Machine

def exec (i : Instr) (s : State) : Host.Outcome State Fault Refusal :=
  match i with
  | .nop => Sys2Proof.Machine.execNop s
  | .build => Sys2Proof.Machine.execBuild s
  | .dinit c => Sys2Proof.Machine.execDinit c s
  | .dinitc c => Sys2Proof.Machine.execDinitc c s
  | .upd c b => Sys2Proof.Machine.execUpd c b s
  | .updn c n => Sys2Proof.Machine.execUpdn c n s
  | .updv c => Sys2Proof.Machine.execUpdv c s
  | .fin c => Sys2Proof.Machine.execFin c s
  | .rdtbl k => Sys2Proof.Machine.execRdtbl k s
  | .rdreg c => Sys2Proof.Machine.execRdreg c s
  | .ldreg c => Sys2Proof.Machine.execLdreg c s

end Sys2Proof.Machine
end

