-- ==== Sys2Proof/Machine/Bus.lean ====
section
/-! DEFINITION. The register window: the register map (20_memory.md R51), which accesses are legal
(R52, R53; 42_register_access.md R189), and each register's read and write (R172 to R188). -/

namespace Sys2Proof.Machine

/-- The registers of the map R51. -/
inductive Reg where
  | param | ctrl | width | poly | init | xorout | arg | cmd | result | status
  deriving DecidableEq, Repr

/-- The offset column of R51. -/
def Reg.offset : Reg → Nat
  | .param => 0x00
  | .ctrl => 0x04
  | .width => 0x08
  | .poly => 0x0C
  | .init => 0x10
  | .xorout => 0x14
  | .arg => 0x18
  | .cmd => 0x1C
  | .result => 0x20
  | .status => 0x24

/-- The register at an offset; none at 0x28 to 0x3C, which are reserved, and between registers. -/
def regAt (off : Nat) : Option Reg :=
  match off with
  | 0x00 => some .param
  | 0x04 => some .ctrl
  | 0x08 => some .width
  | 0x0C => some .poly
  | 0x10 => some .init
  | 0x14 => some .xorout
  | 0x18 => some .arg
  | 0x1C => some .cmd
  | 0x20 => some .result
  | 0x24 => some .status
  | _ => none

/-- The offset of a bus address in the window BASE to BASE + 0x3F; none outside it (R50). -/
def windowOffset (p : Params) (addr : Nat) : Option Nat :=
  if p.base ≤ addr ∧ addr < p.base + 0x40 then some (addr - p.base) else none

/-- The register an access of this size at this offset reaches. None is a bus error: not 32 bits
(R52), not a multiple of 4 (R53), or a reserved offset (R51). -/
def selectReg (off bits : Nat) : Option Reg :=
  if bits = 32 ∧ off &&& 3 = 0 then regAt off else none

/-! ## Reads (42_register_access.md section 3) -/

/-- VALIDATE as PARAM[12] shows it (10_state.md R20). -/
def validateBit : Validate → Word
  | .off => 0
  | .active => 1

/-- PARAM (R20, R179): NW in [7:0], N_CTX - 1 in [11:8], VALIDATE in [12]. -/
def paramWord (p : Params) : Word :=
  0x20#32 ||| BitVec.ofNat 32 p.lastCtx.val <<< 8 ||| validateBit p.validate <<< 12

/-- The value a legal read returns, reserved bits 0 (R170, R179 to R188); none for CMD, whose read is a
bus error (R28). -/
def readReg (r : Reg) (s : State) : Option Word :=
  match r with
  | .param => some (paramWord s.params)
  | .ctrl => some (s.ctrl.setWidth 32)
  | .width => some (s.width.setWidth 32)
  | .poly => some s.poly
  | .init => some s.init
  | .xorout => some s.xorout
  | .arg => some s.arg
  | .cmd => none
  | .result => some s.result
  | .status => some (statusWord s)

/-! ## Writes (42_register_access.md section 2) -/

/-- WR CTRL (R172): bits 31:2 are dropped; the engine is destroyed (R171). -/
def writeCtrl (v : Word) (s : State) : State := destroyEngine { s with ctrl := v.setWidth 2 }

/-- WR WIDTH (R173): bits 31:6 are dropped; the engine is destroyed. -/
def writeWidth (v : Word) (s : State) : State := destroyEngine { s with width := v.setWidth 6 }

/-- WR POLY (R174). -/
def writePoly (v : Word) (s : State) : State := destroyEngine { s with poly := v }

/-- WR INIT (R175). -/
def writeInit (v : Word) (s : State) : State := destroyEngine { s with init := v }

/-- WR XOROUT (R176). -/
def writeXorout (v : Word) (s : State) : State := destroyEngine { s with xorout := v }

/-- WR ARG (R177). -/
def writeArg (v : Word) (s : State) : State := { s with arg := v }

/-- WR STATUS (R181): bit 1 clears the error record; every other bit is ignored. -/
def writeStatus (v : Word) (s : State) : State := if v.getLsbD 1 then clearError s else s

/-- WR CMD (R178): decode, raise ILLEGAL_CMD or execute. -/
def writeCmd (v : Word) (s : State) : Result :=
  match decode v with
  | .error _ => .next (raiseCmdError .illegalCmd s)
  | .ok i => exec i s

/-- A legal 32-bit aligned write of a register. A write of PARAM or RESULT is a bus error (R189). A CMD
write completes normally even when its command raises an error (R178). -/
def writeReg (r : Reg) (v : Word) (s : State) : Result :=
  match r with
  | .param => .next (s.respond .busError)
  | .ctrl => .next (writeCtrl v (s.respond .ack))
  | .width => .next (writeWidth v (s.respond .ack))
  | .poly => .next (writePoly v (s.respond .ack))
  | .init => .next (writeInit v (s.respond .ack))
  | .xorout => .next (writeXorout v (s.respond .ack))
  | .arg => .next (writeArg v (s.respond .ack))
  | .cmd => writeCmd v (s.respond .ack)
  | .result => .next (s.respond .busError)
  | .status => .next (writeStatus v (s.respond .ack))

/-! ## Accesses and inputs -/

/-- A bus error: "The block changes no state for it" (60_exceptions.md R206); the host gets the error
response and its run goes on (R245). -/
def busError (s : State) : Result := .next (s.respond .busError)

/-- BusRead of any size at any address of the window. -/
def busRead (addr bits : Nat) (s : State) : Result :=
  match windowOffset s.params addr with
  | none => .fault .outsideWindow
  | some off =>
    match selectReg off bits with
    | none => busError s
    | some r =>
      match readReg r s with
      | none => busError s
      | some v => .next (s.respond (.data v))

/-- BusWrite of any size at any address of the window. -/
def busWrite (addr bits : Nat) (v : Word) (s : State) : Result :=
  match windowOffset s.params addr with
  | none => .fault .outsideWindow
  | some off =>
    match selectReg off bits with
    | none => busError s
    | some r => writeReg r v s

/-- One input takes its whole effect (20_memory.md R57, R60; R230). -/
def serve (e : Input) (s : State) : Result :=
  match e with
  | .access (.read addr bits) => busRead addr bits s
  | .access (.write addr bits v) => busWrite addr bits v s
  | .reset => .next (assertReset s)

end Sys2Proof.Machine
end

