-- ==== Sys2Proof/Machine/Pseudo.lean ====
section
/-! DEFINITION. The host's access syntax (30_encoding.md R82) and the pseudo-instructions (R83): each
stands for a sequence of accesses, in order; none is a command of its own. -/

namespace Sys2Proof.Machine

/-- `RD <reg>` (R82). -/
def rd (p : Params) (r : Reg) : Access := .read (p.base + r.offset) 32

/-- `WR <reg>, v` (R82). -/
def wr (p : Params) (r : Reg) (v : Word) : Access := .write (p.base + r.offset) 32 v

/-- "A command line stands for the host access `WR CMD, <word>`" (R81). -/
def command (p : Params) (i : Instr) : Access := wr p .cmd (encode i)

/-- `SETSPEC w, p, i, ri, ro, x`. -/
def setSpec (p : Params) (w poly init : Word) (ri ro : Bool) (x : Word) : List Access :=
  [wr p .ctrl (bit ri ||| bit ro <<< 1), wr p .width w, wr p .poly poly, wr p .init init,
    wr p .xorout x, command p .build]

/-- `DIGEST c`. -/
def digest (p : Params) (c : CtxNum) : List Access := [command p (.dinit c)]

/-- `DIGESTI c, v`. -/
def digestI (p : Params) (c : CtxNum) (v : Word) : List Access :=
  [wr p .arg v, command p (.dinitc c)]

/-- `FEED c, b0, ..., bk`. -/
def feed (p : Params) (c : CtxNum) (bs : List Byte) : List Access :=
  bs.map fun b => command p (.upd c b)

/-- `FEED4 c, b0, b1, b2, b3`. -/
def feed4 (p : Params) (c : CtxNum) (b0 b1 b2 b3 : Byte) : List Access :=
  [wr p .arg (wordOfBytes b0 b1 b2 b3), command p (.updn c 4)]

/-- `FINAL c`. -/
def final (p : Params) (c : CtxNum) : List Access := [command p (.fin c), rd p .result]

/-- `CHECKSUM c, b0, ..., bk`. -/
def checksum (p : Params) (c : CtxNum) (bs : List Byte) : List Access :=
  digest p c ++ feed p c bs ++ final p c

/-- `INITREG c, v`. -/
def initReg (p : Params) (c : CtxNum) (v : Word) : List Access :=
  [wr p .arg v, command p (.dinitc c), command p (.rdreg c), rd p .result]

/-- `UPDREG c, r, b0, ..., bk`. -/
def updReg (p : Params) (c : CtxNum) (r : Word) (bs : List Byte) : List Access :=
  [wr p .arg r, command p (.ldreg c)] ++ feed p c bs ++ [command p (.rdreg c), rd p .result]

/-- `FINREG c, r`. -/
def finReg (p : Params) (c : CtxNum) (r : Word) : List Access :=
  [wr p .arg r, command p (.ldreg c), command p (.fin c), rd p .result]

/-- `CLRERR`. -/
def clrErr (p : Params) : List Access := [wr p .status 0x00000002#32]

/-- The host adds accesses to the end of its sequence (R244). -/
def State.submit (s : State) (as : List Access) : State :=
  { s with pending := s.pending ++ as.map Input.access }

end Sys2Proof.Machine
end

