-- ==== Sys2Proof/Machine/Step.lean ====
section
/-! DEFINITION. One step: the block receives the next input of the host's sequence and serves it whole
(20_memory.md R57, R60; 70_reset_and_hazards.md R244, R245). -/

namespace Sys2Proof.Machine

/-- The next input is received, the index moves on by one if it is an access (R245), and the input takes
its effect. With no input left the run has ended (R244) and the model stops (log 5). -/
def step (s : State) : Host.Outcome State Fault Refusal :=
  match s.pending with
  | [] => .refused .sequenceExhausted
  | e :: rest => serve e (s.received e rest)

/-- The host's next access is the write of this command word to CMD. The block fetches nothing (R63);
a program comes to it as the host's access sequence (log 4). -/
def State.withFetchWord (s : State) (nbits w : Nat) : State :=
  { s with pending := .access (wr s.params .cmd (tableWord nbits w)) :: s.pending }

end Sys2Proof.Machine
end

