-- ==== Sys2Proof/Safety.lean ====
section
/-! DEFINITION. The terms claims use: the invariants of 10_state.md (R30, R37, R38), the check order of
60_exceptions.md R201 as one function, the observable outcome of a run (70_reset_and_hazards.md R244),
and the bit-serial register update in the bit order of 20_memory.md R55. -/

namespace Sys2Proof.Machine

/-! ## Invariants -/

/-- Engine invariant (R37): while TABLE_VALID = 1, 1 <= W <= 32 and every entry is the one of the current
POLY, WIDTH and CTRL. -/
def State.EngineInv (s : State) : Prop :=
  ∀ t, s.table = some t → (1 ≤ s.W ∧ s.W ≤ 32) ∧
    ∀ i : Byte, t.entryAt i = entry (polyx s.poly s.W s.refin) s.refin i

/-- Context invariant (R38), and no context at or above N_CTX is live (R30: those STATUS bits read 0). -/
def State.ContextInv (s : State) : Prop :=
  ∀ c d, s.ctx c = some d →
    s.tableValid = true ∧ c.toNat < s.params.nCtx ∧ (d.poison = true → s.params.validate = .active)

/-- "0 when ERR = 0" (R30), and a recorded error has a code other than NONE (R200). -/
def State.ErrorInv (s : State) : Prop := s.err = false ↔ s.errCode = .none

/-- The state keeps all three. -/
structure State.Inv (s : State) : Prop where
  engine : s.EngineInv
  contexts : s.ContextInv
  error : s.ErrorInv

/-! ## The check order of a CMD write (R201) -/

/-- The command uses the CTX field (R77). -/
def usesCtx (i : Instr) : Option CtxNum :=
  match i with
  | .nop => none
  | .build => none
  | .dinit c => some c
  | .dinitc c => some c
  | .upd c _ => some c
  | .updn c _ => some c
  | .updv c => some c
  | .fin c => some c
  | .rdtbl _ => none
  | .rdreg c => some c
  | .ldreg c => some c

/-- The command needs a live digest: UPD, UPDN, UPDV, FIN, RDREG (R201 step 6). -/
def needsLive (i : Instr) : Bool :=
  match i with
  | .nop => false
  | .build => false
  | .dinit _ => false
  | .dinitc _ => false
  | .upd _ _ => true
  | .updn _ _ => true
  | .updv _ => true
  | .fin _ => true
  | .rdtbl _ => false
  | .rdreg _ => true
  | .ldreg _ => false

/-- Steps 2 to 6 of R201 for a decoded command: its error, none when it executes. -/
def commandError (i : Instr) (s : State) : Option ErrCode :=
  if i = .nop then none
  else if i = .build then (if 1 ≤ s.W ∧ s.W ≤ 32 then none else some .badWidth)
  else if s.tableValid = false then some .noEngine
  else match usesCtx i with
    | none => none
    | some c =>
      if s.params.nCtx ≤ c.toNat then some .badCtx
      else if needsLive i && !s.live c then some .notLive
      else none

/-- R201 whole: `check(v)` for a word written to CMD. -/
def wordError (v : Word) (s : State) : Option ErrCode :=
  match decode v with
  | .error _ => some .illegalCmd
  | .ok i => commandError i s

/-! ## Runs (R244) -/

/-- "A run ends when the sequence is exhausted." -/
def State.runEnded (s : State) : Bool := s.pending.isEmpty

/-- The values returned by the run's reads, oldest first. -/
def State.readValues (s : State) : List Word :=
  s.trace.filterMap fun r =>
    match r with
    | .data v => some v
    | .ack => none
    | .busError => none

/-- The number of bus errors of the run. -/
def State.busErrors (s : State) : Nat := (s.trace.filter (· == .busError)).length

/-- "A run ends in a bad state when any access got a bus error, or when STATUS.ERR = 1 at the end and
the program did not expect a command error" (R244). -/
def State.endsBad (s : State) (expectsError : Bool) : Bool :=
  decide (0 < s.busErrors) || (s.err && !expectsError)

/-! ## Bit order (R55) -/

/-- The bits of a byte in the order they are processed: bit 0 first when REFIN is true, bit 7 first when
it is false (R55). -/
def processingOrder (refin : Bool) : List Nat :=
  if refin then [0, 1, 2, 3, 4, 5, 6, 7] else [7, 6, 5, 4, 3, 2, 1, 0]

/-- One input bit x into the register r, the shift/XOR step of R101 with the bit joined to the one the
shift drops. -/
def bitStep (P : Word) (refin : Bool) (r : Word) (x : Bool) : Word :=
  if refin then (r >>> 1) ^^^ (if r.getLsbD 0 != x then P else 0)
  else (r <<< 1) ^^^ (if r.getLsbD 31 != x then P else 0)

/-- One byte, bit by bit. -/
def bitSerial (P : Word) (refin : Bool) (r : Word) (b : Byte) : Word :=
  (processingOrder refin).foldl (fun r k => bitStep P refin r (b.getLsbD k)) r

/-- The alignment of an internalized register or table entry (R33, R120): bits S-1 to 0 are zero when
REFIN is 0; bits 31 to W are zero when REFIN is 1. -/
def aligned (W : Nat) (refin : Bool) (r : Word) : Prop :=
  ∀ k, (if refin then W ≤ k else k < 32 - W) → r.getLsbD k = false

/-- rev8(i) (R106). -/
def rev8 (i : Byte) : Byte := i.reverse

end Sys2Proof.Machine
end

