-- ==== Sys2Proof/Certificates/Slice0/Obligations.lean ====
section
/-! DEFINITION. The statements for the provers. Each docstring names the rule of the spec it formalises.
A next state is written out as a record update, so that each equation is also the frame: every field
not named is unchanged. -/

open Sys2Proof Sys2Proof.Machine

namespace Sys2Proof.Claims

/-! ## Terms the statements share -/

/-- R203 written out: "if ERR = 0: ERRCODE <- code", "ERR <- 1", nothing else. -/
def recorded (code : ErrCode) (s : State) : State :=
  { s with errCode := if s.err then s.errCode else code, err := true }

/-- The state with context c holding d (REG[c], LIVE[c], POISON[c]) and nothing else changed. -/
def withCtxSet (s : State) (c : CtxNum) (d : Option Digest) : State :=
  { s with ctxs := s.ctxs.set c.toNat d c.isLt }

/-- A CMD word with this OPC runs the command when RSV and the fields the opcode does not use are 0,
and is otherwise recorded as ILLEGAL_CMD (R71, R75, R76). -/
def wordRuns (opc : Nat) (ctx n imm : Bool) (mk : CtxNum → Nat → Byte → Instr) : Prop :=
  ∀ (s : State) (w : Word), w.extractLsb' 28 4 = BitVec.ofNat 4 opc →
    writeCmd w s =
      if w.extractLsb' 10 14 = 0#14 ∧ (ctx = true ∨ w.extractLsb' 24 4 = 0#4) ∧
          (n = true ∨ w.extractLsb' 8 2 = 0#2) ∧ (imm = true ∨ w.extractLsb' 0 8 = 0#8) then
        exec (mk (w.extractLsb' 24 4) ((w.extractLsb' 8 2).toNat + 1) (w.extractLsb' 0 8)) s
      else .next (recorded .illegalCmd s)

/-- Without an engine the command records NO_ENGINE (R201 step 4). -/
def failsWithoutEngine (i : Instr) : Prop :=
  ∀ s : State, s.table = none → exec i s = .next (recorded .noEngine s)

/-- With an engine and CTX >= N_CTX the command records BAD_CTX (R201 step 5). -/
def failsOnBadCtx (i : Instr) (c : CtxNum) : Prop :=
  ∀ (s : State) (t : Table), s.table = some t → s.params.nCtx ≤ c.toNat →
    exec i s = .next (recorded .badCtx s)

/-- With an engine and a context of the instance that is not live it records NOT_LIVE (R201 step 6). -/
def failsOnNotLive (i : Instr) (c : CtxNum) : Prop :=
  ∀ (s : State) (t : Table), s.table = some t → c.toNat < s.params.nCtx → s.ctx c = none →
    exec i s = .next (recorded .notLive s)

/-- When the block's next input is the access a, the step answers with the response r, the index moves
on by one, and the rest of the state is that of u. -/
def serves (s : State) (a : Access) (r : Response) (u : State) : Prop :=
  ∀ rest, s.pending = .access a :: rest →
    step s = .next { u with pending := rest, pc := s.pc + 1, trace := s.trace ++ [r] }

/-- A sequence of commands executed one after the other. -/
def execAll : List Instr → State → Result
  | [], s => .next s
  | i :: is, s =>
    match exec i s with
    | .next t => execAll is t
    | .fault f => .fault f
    | .refused r => .refused r

/-- An update command of context c. -/
def isUpdate (i : Instr) (c : CtxNum) : Prop :=
  (∃ b, i = .upd c b) ∨ (∃ n, i = .updn c n) ∨ i = .updv c

/-- One chunk of a byte stream: a byte fed by UPD, or the first n bytes of a word fed by a write of ARG
and UPDN (R127: "any mix of UPD and UPDN commands"). -/
inductive Chunk where
  | one (b : Byte)
  | packed (v : Word) (n : Nat)

/-- The bytes of a chunk in feeding order (R56). -/
def Chunk.bytes : Chunk → List Byte
  | .one b => [b]
  | .packed v n => ((List.range 4).map fun k => v.extractLsb' (8 * k) 8).take n

/-- UPDN's count is 1 to 4 (R73). -/
def Chunk.ok : Chunk → Prop
  | .one _ => True
  | .packed _ n => 1 ≤ n ∧ n ≤ 4

/-- The accesses that feed a chunk. -/
def Chunk.accesses (p : Params) (c : CtxNum) : Chunk → List Access
  | .one b => [command p (.upd c b)]
  | .packed v n => [wr p .arg v, command p (.updn c n)]

end Sys2Proof.Claims

open Sys2Proof.Claims

/-! ## Encoding -/

/-- Words written out from R77 and R81 (and 95_test_vectors.md sections 6 and 8) decode to their
commands, and reserved or malformed ones to ILLEGAL. -/
def Obligations.WordsOfTheSpecDecode : Prop :=
  decode 0x00000000 = .ok .nop ∧ decode 0x10000000 = .ok .build ∧
  decode 0x20000000 = .ok (.dinit 0) ∧ decode 0x31000000 = .ok (.dinitc 1) ∧
  decode 0x40000031 = .ok (.upd 0 0x31) ∧ decode 0x51000300 = .ok (.updn 1 4) ∧
  decode 0x50000000 = .ok (.updn 0 1) ∧ decode 0x61000000 = .ok (.updv 1) ∧
  decode 0x79000000 = .ok (.fin 9) ∧ decode 0x800000FF = .ok (.rdtbl 255) ∧
  decode 0x90000000 = .ok (.rdreg 0) ∧ decode 0xAF000000 = .ok (.ldreg 15) ∧
  decode 0xB0000000 = .error .reservedOpcode ∧ decode 0x40000400 = .error .reservedBits ∧
  decode 0x00000100 = .error .unusedField ∧ decode 0x81000000 = .error .unusedField ∧
  decode 0x79000001 = .error .unusedField

/-- The decoder gives every well-formed command back from its word (R80, R81). -/
def Obligations.DecodeAfterEncode : Prop :=
  ∀ i : Instr, i.wf = true → decode (encode i) = .ok i

/-- "so every legal command has exactly one encoding per operand value" (R76): the word a command was
decoded from is the word of the command. -/
def Obligations.LegalWordsAreEncodings : Prop :=
  ∀ (w : Word) (i : Instr), decode w = .ok i → i.wf = true ∧ encode i = w

/-- "A word w decodes as the row whose `(w AND mask) = match`" (R77), and as nothing when no row matches
(R80). -/
def Obligations.DecodeFollowsTheOpcodeMap : Prop :=
  (∀ (w : Word) (i : Instr), decode w = .ok i →
    ∃ r ∈ opcodeRows, r.mnemonic = i.mnemonic ∧ w &&& r.mask = r.pattern) ∧
  (∀ (w : Word), ∀ r ∈ opcodeRows, w &&& r.mask = r.pattern →
    ∃ i, decode w = .ok i ∧ i.mnemonic = r.mnemonic)

/-- R78, R75 and R80 on a write to CMD: a reserved OPC, a set RSV bit, or a word of no row records
ILLEGAL_CMD and has no other effect. -/
def Obligations.IllegalWordsOnlyRecordTheError : Prop :=
  ∀ (s : State) (w : Word),
    (0xB ≤ (w.extractLsb' 28 4).toNat ∨ w.extractLsb' 10 14 ≠ 0#14 ∨
      ∀ r ∈ opcodeRows, w &&& r.mask ≠ r.pattern) →
    writeCmd w s = .next (recorded .illegalCmd s)

/-- R54: the bytes of a command word, byte k being bits [8k+7:8k], at increasing addresses decode as the
word; the packed bytes of a word are its bytes in address order (R56). -/
def Obligations.BytesAreLittleEndian : Prop :=
  (∀ w : Word, decodeBytes [w.extractLsb' 0 8, w.extractLsb' 8 8, w.extractLsb' 16 8,
    w.extractLsb' 24 8] = decode w) ∧
  (∀ b0 b1 b2 b3 : Byte, argBytes (wordOfBytes b0 b1 b2 b3) 4 = [b0, b1, b2, b3])

/-! ## One step -/

/-- R178: a write of v to CMD whose word decodes to i is one step that runs exec i, the access having
been received (pending, index) and answered as completed; an ILLEGAL word records ILLEGAL_CMD. -/
def Obligations.StepRunsTheDecodedCommand : Prop :=
  ∀ (s : State) (v : Word) (rest : List Input),
    s.pending = .access (.write (s.params.base + 0x1C) 32 v) :: rest →
    (∀ i, decode v = .ok i →
      step s = exec i { s with pending := rest, pc := s.pc + 1, trace := s.trace ++ [.ack] }) ∧
    (∀ e, decode v = .error e →
      step s = .next (recorded .illegalCmd
        { s with pending := rest, pc := s.pc + 1, trace := s.trace ++ [.ack] }))

/-! ## Commands -/

/-- R130. -/
def Obligations.NopChangesNothing : Prop :=
  (∀ s : State, exec .nop s = .next s) ∧ wordRuns 0x0 false false false (fun _ _ _ => .nop)

/-- R102, with its corner case that a BUILD of an engine that exists changes nothing. -/
def Obligations.BuildFillsTheTable : Prop :=
  (∀ s : State, 1 ≤ s.W → s.W ≤ 32 →
    ∃ t : Table, exec .build s = .next { s with table := some t } ∧
      ∀ i : Byte, t.entryAt i = entry (polyx s.poly s.W s.refin) s.refin i) ∧
  (∀ s : State, s.W = 0 ∨ 32 < s.W → exec .build s = .next (recorded .badWidth s)) ∧
  (∀ s : State, s.EngineInv → s.tableValid = true → exec .build s = .next s) ∧
  wordRuns 0x1 false false false (fun _ _ _ => .build)

/-- R103, with its corner case that entry 0 of an engine is 0. -/
def Obligations.RdtblReadsOneEntry : Prop :=
  (∀ (s : State) (t : Table) (i : Byte), s.table = some t →
    exec (.rdtbl i) s = .next { s with result := t.entryAt i }) ∧
  (∀ (s : State) (t : Table), s.EngineInv → s.table = some t → t.entryAt 0 = 0) ∧
  (∀ i, failsWithoutEngine (.rdtbl i)) ∧
  wordRuns 0x8 false false true (fun _ _ i => .rdtbl i)

/-- R131. -/
def Obligations.DinitStartsADigestFromInit : Prop :=
  (∀ (s : State) (t : Table) (c : CtxNum), s.table = some t → c.toNat < s.params.nCtx →
    exec (.dinit c) s = .next (withCtxSet s c (some {
      reg := if s.refin then rev32 s.init >>> (32 - s.W) else s.init <<< (32 - s.W)
      poison := false }))) ∧
  (∀ c, failsWithoutEngine (.dinit c) ∧ failsOnBadCtx (.dinit c) c) ∧
  wordRuns 0x2 true false false (fun c _ _ => .dinit c)

/-- R132, with its corner case that ARG = INIT makes it DINIT. -/
def Obligations.DinitcStartsADigestFromArg : Prop :=
  (∀ (s : State) (t : Table) (c : CtxNum), s.table = some t → c.toNat < s.params.nCtx →
    exec (.dinitc c) s = .next (withCtxSet s c (some {
      reg := if s.refin then rev32 s.arg >>> (32 - s.W) else s.arg <<< (32 - s.W)
      poison := false }))) ∧
  (∀ (s : State) (c : CtxNum), s.arg = s.init → exec (.dinitc c) s = exec (.dinit c) s) ∧
  (∀ c, failsWithoutEngine (.dinitc c) ∧ failsOnBadCtx (.dinitc c) c) ∧
  wordRuns 0x3 true false false (fun c _ _ => .dinitc c)

/-- R133, with its corner case that RDREG after LDREG returns ARG. -/
def Obligations.LdregLoadsArgAsItIs : Prop :=
  (∀ (s : State) (t : Table) (c : CtxNum), s.table = some t → c.toNat < s.params.nCtx →
    exec (.ldreg c) s = .next (withCtxSet s c (some { reg := s.arg, poison := false })) ∧
    execAll [.ldreg c, .rdreg c] s = .next
      { withCtxSet s c (some { reg := s.arg, poison := false }) with result := s.arg }) ∧
  (∀ c, failsWithoutEngine (.ldreg c) ∧ failsOnBadCtx (.ldreg c) c) ∧
  wordRuns 0xA true false false (fun c _ _ => .ldreg c)

/-- R134: a live context takes one step of R121, unless it is poisoned. -/
def Obligations.UpdFeedsOneByte : Prop :=
  (∀ (s : State) (t : Table) (c : CtxNum) (d : Digest) (b : Byte),
    s.table = some t → c.toNat < s.params.nCtx → s.ctx c = some d →
    exec (.upd c b) s = .next (if d.poison then s
      else withCtxSet s c (some { d with reg := crcStep t s.refin d.reg b }))) ∧
  (∀ c b, failsWithoutEngine (.upd c b) ∧ failsOnBadCtx (.upd c b) c ∧
    failsOnNotLive (.upd c b) c) ∧
  wordRuns 0x4 true false true (fun c _ b => .upd c b)

/-- R135: the bytes ARG[7:0], ARG[15:8], ... as far as the count goes; UPDN c, n is equal to n UPD commands
with the same bytes in lane order, whatever the state. -/
def Obligations.UpdnFeedsTheLanesOfArg : Prop :=
  (∀ (s : State) (t : Table) (c : CtxNum) (d : Digest) (n : Nat), 1 ≤ n → n ≤ 4 →
    s.table = some t → c.toNat < s.params.nCtx → s.ctx c = some d →
    exec (.updn c n) s = .next (if d.poison then s
      else withCtxSet s c (some {
        reg := (List.range n).foldl
          (fun r k => crcStep t s.refin r (s.arg.extractLsb' (8 * k) 8)) d.reg
        poison := d.poison }))) ∧
  (∀ (s : State) (c : CtxNum) (n : Nat), 1 ≤ n → n ≤ 4 →
    exec (.updn c n) s =
      execAll ((List.range n).map fun k => .upd c (s.arg.extractLsb' (8 * k) 8)) s) ∧
  (∀ c n, failsWithoutEngine (.updn c n) ∧ failsOnBadCtx (.updn c n) c ∧
    failsOnNotLive (.updn c n) c) ∧
  wordRuns 0x5 true true false (fun c n _ => .updn c n)

/-- R136 with R124: NONE takes the low 8 bits, ACTIVE accepts 0 to 255 and otherwise poisons the context
and leaves its register as it was; with ARG <= 255 UPDV is equal to UPD c, ARG, whatever the state. -/
def Obligations.UpdvValidatesArg : Prop :=
  (∀ (s : State) (t : Table) (c : CtxNum) (d : Digest),
    s.table = some t → c.toNat < s.params.nCtx → s.ctx c = some d →
    (d.poison = true → exec (.updv c) s = .next s) ∧
    (d.poison = false → (s.params.validate = .off ∨ s.arg.toNat ≤ 255) →
      exec (.updv c) s = .next (withCtxSet s c
        (some { d with reg := crcStep t s.refin d.reg (s.arg.extractLsb' 0 8) }))) ∧
    (d.poison = false → s.params.validate = .active → 255 < s.arg.toNat →
      exec (.updv c) s = .next (withCtxSet s c (some { reg := d.reg, poison := true })))) ∧
  (∀ (s : State) (c : CtxNum), s.arg.toNat ≤ 255 →
    exec (.updv c) s = exec (.upd c (BitVec.ofNat 8 s.arg.toNat)) s) ∧
  (∀ c, failsWithoutEngine (.updv c) ∧ failsOnBadCtx (.updv c) c ∧ failsOnNotLive (.updv c) c) ∧
  wordRuns 0x6 true false false (fun c _ _ => .updv c)

/-- R137: fin_fn(REG[c]), or the sentinel 0, to RESULT, and the digest is consumed: a second FIN records
NOT_LIVE. -/
def Obligations.FinDeliversAndConsumes : Prop :=
  (∀ (s : State) (t : Table) (c : CtxNum) (d : Digest),
    s.table = some t → c.toNat < s.params.nCtx → s.ctx c = some d →
    exec (.fin c) s = .next { withCtxSet s c none with
      result := if d.poison then 0 else finFn s.W s.refin s.refout s.xorout d.reg } ∧
    execAll [.fin c, .fin c] s = .next (recorded .notLive { withCtxSet s c none with
      result := if d.poison then 0 else finFn s.W s.refin s.refout s.xorout d.reg })) ∧
  (∀ c, failsWithoutEngine (.fin c) ∧ failsOnBadCtx (.fin c) c ∧ failsOnNotLive (.fin c) c) ∧
  wordRuns 0x7 true false false (fun c _ _ => .fin c)

/-- R138: the digest stays live. -/
def Obligations.RdregReadsTheRegister : Prop :=
  (∀ (s : State) (t : Table) (c : CtxNum) (d : Digest),
    s.table = some t → c.toNat < s.params.nCtx → s.ctx c = some d →
    exec (.rdreg c) s = .next { s with result := if d.poison then 0 else d.reg }) ∧
  (∀ c, failsWithoutEngine (.rdreg c) ∧ failsOnBadCtx (.rdreg c) c ∧ failsOnNotLive (.rdreg c) c) ∧
  wordRuns 0x9 true false false (fun c _ _ => .rdreg c)

/-! ## Errors -/

/-- R201, R202, R203: the first failing check of R201 (wordError) gives the write's only error, which
changes ERR and ERRCODE and nothing else; a word that fails no check executes its command and records
none. -/
def Obligations.FirstFailingCheckIsRecorded : Prop :=
  ∀ (s : State) (v : Word),
    (∀ code, wordError v s = some code → writeCmd v s = .next (recorded code s)) ∧
    (wordError v s = none → ∃ i s', decode v = .ok i ∧ writeCmd v s = exec i s ∧
      exec i s = .next s' ∧ s'.err = s.err ∧ s'.errCode = s.errCode)

/-- R204: commands execute alike whatever ERR and ERRCODE are, and ERR stays 1 with the first code. -/
def Obligations.ErrorsDoNotStopTheBlock : Prop :=
  ∀ (i : Instr) (s : State),
    (∀ e k, ∃ (u : State) (e' : Bool) (k' : ErrCode), exec i s = .next u ∧
      exec i { s with err := e, errCode := k } = .next { u with err := e', errCode := k' }) ∧
    (s.err = true → ∃ u, exec i s = .next u ∧ u.err = true ∧ u.errCode = s.errCode)

/-- R125: while a context is poisoned its updates are accepted and change nothing, FIN and RDREG return
0; a rejected value poisons and records no error; DINIT, DINITC, LDREG and FIN clear it. -/
def Obligations.PoisonedContextReturnsTheSentinel : Prop :=
  ∀ (s : State) (t : Table) (c : CtxNum) (d : Digest),
    s.table = some t → c.toNat < s.params.nCtx → s.ctx c = some d →
    (d.poison = true →
      (∀ i, isUpdate i c → exec i s = .next s) ∧
      (∃ u, exec (.fin c) s = .next u ∧ u.result = 0) ∧
      (∃ u, exec (.rdreg c) s = .next u ∧ u.result = 0 ∧ u.ctx c = some d)) ∧
    (d.poison = false → s.params.validate = .active → 255 < s.arg.toNat →
      ∃ u, exec (.updv c) s = .next u ∧ u.poison c = true ∧ u.reg c = s.reg c ∧
        u.err = s.err ∧ u.errCode = s.errCode) ∧
    (∀ i, i = .dinit c ∨ i = .dinitc c ∨ i = .ldreg c ∨ i = .fin c →
      ∃ u, exec i s = .next u ∧ u.poison c = false)

/-! ## What commands leave alone -/

/-- Commands change neither the specification registers nor ARG (R27), nor the instance's parameters
(R40), nor the host's sequence, index and observed responses; only BUILD changes the table (R32). -/
def Obligations.CommandsLeaveConfigurationAlone : Prop :=
  ∀ (i : Instr) (s s' : State), exec i s = .next s' →
    s'.params = s.params ∧ s'.ctrl = s.ctrl ∧ s'.width = s.width ∧ s'.poly = s.poly ∧
    s'.init = s.init ∧ s'.xorout = s.xorout ∧ s'.arg = s.arg ∧ s'.pending = s.pending ∧
    s'.pc = s.pc ∧ s'.trace = s.trace ∧ (i ≠ .build → s'.table = s.table)

/-- R214, R131 ("Other contexts are untouched"): a command leaves every context but the one it names
unchanged. -/
def Obligations.CommandsTouchOneContext : Prop :=
  ∀ (i : Instr) (s s' : State) (k : CtxNum), exec i s = .next s' → usesCtx i ≠ some k →
    s'.ctx k = s.ctx k

/-- R214: update commands of two different live contexts may be interleaved freely. -/
def Obligations.UpdatesOfTwoContextsCommute : Prop :=
  ∀ (s : State) (t : Table) (c k : CtxNum) (i j : Instr),
    s.table = some t → c.toNat < s.params.nCtx → k.toNat < s.params.nCtx →
    s.live c = true → s.live k = true → c ≠ k → isUpdate i c → isUpdate j k →
    ∃ u, execAll [i, j] s = .next u ∧ execAll [j, i] s = .next u

/-! ## Register accesses -/

/-- R172 to R176 with R171: each stores its value, drops the reserved bits, and destroys the engine:
TABLE_VALID, every LIVE and every POISON become 0. ERR, ERRCODE, RESULT and ARG are kept. -/
def Obligations.SpecificationWritesDestroyTheEngine : Prop :=
  ∀ (s : State) (v : Word),
    let d : State := { s with table := none, ctxs := Vector.replicate 16 none }
    serves s (.write (s.params.base + 0x04) 32 v) .ack { d with ctrl := v.extractLsb' 0 2 } ∧
    serves s (.write (s.params.base + 0x08) 32 v) .ack { d with width := v.extractLsb' 0 6 } ∧
    serves s (.write (s.params.base + 0x0C) 32 v) .ack { d with poly := v } ∧
    serves s (.write (s.params.base + 0x10) 32 v) .ack { d with init := v } ∧
    serves s (.write (s.params.base + 0x14) 32 v) .ack { d with xorout := v } ∧
    d.tableValid = false ∧ ∀ c, d.live c = false ∧ d.poison c = false

/-- R177 and R181: WR ARG only stores; WR STATUS clears ERR and ERRCODE when bit 1 is 1 and otherwise
does nothing. -/
def Obligations.ArgAndStatusWrites : Prop :=
  ∀ (s : State) (v : Word),
    serves s (.write (s.params.base + 0x18) 32 v) .ack { s with arg := v } ∧
    serves s (.write (s.params.base + 0x24) 32 v) .ack
      (if v.getLsbD 1 then { s with err := false, errCode := .none } else s)

/-- R180, R183, R184, R186, R187, R188 (and the read of POLY): each read returns its register, reserved
bits 0, and changes nothing of the block. -/
def Obligations.ReadsReturnTheirRegisters : Prop :=
  ∀ s : State,
    serves s (.read (s.params.base + 0x04) 32) (.data (s.ctrl.setWidth 32)) s ∧
    serves s (.read (s.params.base + 0x08) 32) (.data (s.width.setWidth 32)) s ∧
    serves s (.read (s.params.base + 0x0C) 32) (.data s.poly) s ∧
    serves s (.read (s.params.base + 0x10) 32) (.data s.init) s ∧
    serves s (.read (s.params.base + 0x14) 32) (.data s.xorout) s ∧
    serves s (.read (s.params.base + 0x18) 32) (.data s.arg) s ∧
    serves s (.read (s.params.base + 0x20) 32) (.data s.result) s

/-- R20 and R179: NW, N_CTX - 1 and VALIDATE in their fields; the same after reset; a write is a bus
error. -/
def Obligations.ParamReportsTheInstance : Prop :=
  ∀ s : State, ∃ v : Word,
    serves s (.read s.params.base 32) (.data v) s ∧
    serves (assertReset s) (.read s.params.base 32) (.data v) (assertReset s) ∧
    (∀ x, serves s (.write s.params.base 32 x) .busError s) ∧
    v.extractLsb' 0 8 = 0x20#8 ∧ (v.extractLsb' 8 4).toNat + 1 = s.params.nCtx ∧
    v.getLsbD 12 = decide (s.params.validate = .active) ∧ v.extractLsb' 13 19 = 0#19

/-- R182: the fields of STATUS as read, bit by bit; LIVE bits at and above N_CTX read 0; the error codes
are numbered as R200 numbers them. -/
def Obligations.StatusReportsItsFields : Prop :=
  ∀ s : State, ∃ v : Word,
    serves s (.read (s.params.base + 0x24) 32) (.data v) s ∧
    v.getLsbD 0 = s.tableValid ∧ v.getLsbD 1 = s.err ∧ v.extractLsb' 2 2 = 0#2 ∧
    v.extractLsb' 4 4 = (match s.errCode with
      | .none => 0#4
      | .illegalCmd => 1#4
      | .noEngine => 2#4
      | .badWidth => 3#4
      | .badCtx => 4#4
      | .notLive => 5#4) ∧
    v.extractLsb' 8 8 = 0#8 ∧
    ∀ c : CtxNum, v.getLsbD (16 + c.toNat) = (decide (c.toNat < s.params.nCtx) && s.live c)

/-- R189, R206: a read of CMD, a write of PARAM or RESULT, any access at offsets 0x28 to 0x3C, at an
offset that is no multiple of 4, or of a size other than 32 bits, gets the error response and changes
nothing. -/
def Obligations.IllegalAccessesAreBusErrors : Prop :=
  ∀ (s : State) (off bits : Nat) (v : Word), off < 0x40 →
    ((bits ≠ 32 ∨ off % 4 ≠ 0 ∨ 0x28 ≤ off) →
      serves s (.read (s.params.base + off) bits) .busError s ∧
      serves s (.write (s.params.base + off) bits v) .busError s) ∧
    serves s (.read (s.params.base + 0x1C) 32) .busError s ∧
    serves s (.write s.params.base 32 v) .busError s ∧
    serves s (.write (s.params.base + 0x20) 32 v) .busError s

/-- R206, R207: whenever an access is answered with the error response, the block's state is unchanged,
the error record too. -/
def Obligations.BusErrorChangesNothing : Prop :=
  ∀ (s s' : State) (a : Access) (rest : List Input), s.pending = .access a :: rest →
    step s = .next s' → s'.trace = s.trace ++ [.busError] →
    s' = { s with pending := rest, pc := s.pc + 1, trace := s.trace ++ [.busError] }

/-- The model's stop for an address outside BASE to BASE + 0x3F (the window of R50; log 7). -/
def Obligations.AccessOutsideTheWindowFaults : Prop :=
  ∀ (s : State) (addr bits : Nat) (v : Word) (rest : List Input),
    (addr < s.params.base ∨ s.params.base + 0x3F < addr) →
    (s.pending = .access (.read addr bits) :: rest → step s = .fault .outsideWindow) ∧
    (s.pending = .access (.write addr bits v) :: rest → step s = .fault .outsideWindow)

/-- R58, R170: reads have no side effects: a read changes nothing but the host's index and what the host
has observed. -/
def Obligations.ReadsHaveNoSideEffects : Prop :=
  ∀ (s s' : State) (addr bits : Nat) (rest : List Input),
    s.pending = .access (.read addr bits) :: rest → step s = .next s' →
    ∃ r : Response, s' = { s with pending := rest, pc := s.pc + 1, trace := s.trace ++ [r] }

/-- "No register shows it" (R36): no readable register tells a poisoned digest from one that is not. -/
def Obligations.PoisonIsHidden : Prop :=
  ∀ (s : State) (c : CtxNum) (d : Digest) (p : Bool) (r : Reg), s.ctx c = some d →
    readReg r (withCtxSet s c (some { d with poison := p })) = readReg r s

/-! ## Whole-machine rules -/

/-- R29: RESULT changes only by a successful FIN, RDTBL or RDREG (or at reset, R231). -/
def Obligations.ResultChangesOnlyBySuccess : Prop :=
  ∀ (s s' : State) (e : Input) (rest : List Input), s.pending = e :: rest →
    step s = .next s' → s'.result ≠ s.result →
    e = .reset ∨ ∃ (v : Word) (i : Instr),
      e = .access (.write (s.params.base + 0x1C) 32 v) ∧ decode v = .ok i ∧
      wordError v s = none ∧
      ((∃ c, i = .fin c) ∨ (∃ k, i = .rdtbl k) ∨ (∃ c, i = .rdreg c))

/-- "Only BUILD writes it" (R32): a table present after a step was there before or is BUILD's. -/
def Obligations.OnlyBuildWritesTheTable : Prop :=
  ∀ (s s' : State) (e : Input) (rest : List Input) (t : Table), s.pending = e :: rest →
    step s = .next s' → s'.table = some t →
    s.table = some t ∨ e = .access (.write (s.params.base + 0x1C) 32 0x10000000#32)

/-- R245, R39, R40: a step takes the next input; the index "advances by one per access", with a command
error or a bus error too, "and it never branches", and each access gets exactly one response; the reset
input is no access and moves nothing of the host's (log 9); the parameters of the instance do not
change. -/
def Obligations.EachAccessAdvancesTheIndex : Prop :=
  ∀ (s s' : State), step s = .next s' →
    s'.params = s.params ∧
    ((∃ a r, s.pending = .access a :: s'.pending ∧ s'.pc = s.pc + 1 ∧
        s'.trace = s.trace ++ [r]) ∨
      (s.pending = .reset :: s'.pending ∧ s'.pc = s.pc ∧ s'.trace = s.trace))

/-- Every step keeps the engine invariant (R37), the context invariant (R38), and ERRCODE = NONE exactly
while ERR = 0 (R30). -/
def Obligations.StepKeepsTheInvariants : Prop :=
  ∀ s s' : State, s.Inv → step s = .next s' → s'.Inv

/-! ## Reset -/

/-- The invariants hold at reset of every instance. -/
def Obligations.ResetHasTheInvariants : Prop :=
  (∀ p, (State.resetFor p).Inv) ∧ State.reset.Inv

/-- R231, every instance: each register 0, no table, and every context without a value, not live, not
poisoned. -/
def Obligations.ResetStateIsTheTable : Prop :=
  ∀ p : Params, let s := State.resetFor p
    paramWord s.params = paramWord p ∧ readReg .ctrl s = some 0 ∧ readReg .width s = some 0 ∧
    readReg .poly s = some 0 ∧ readReg .init s = some 0 ∧ readReg .xorout s = some 0 ∧
    readReg .arg s = some 0 ∧ readReg .result s = some 0 ∧ readReg .status s = some 0 ∧
    s.table = none ∧ ∀ c, s.reg c = none ∧ s.live c = false ∧ s.poison c = false

/-- R230, R231: the reset input gives the reset state of the instance. The host's remaining sequence, its
index (reset is no access, R245) and its observed responses stay, which is the model's choice (log 9). -/
def Obligations.ResetInputGivesTheResetState : Prop :=
  ∀ (s : State) (rest : List Input), s.pending = .reset :: rest →
    step s = .next { State.resetFor s.params with
      pending := rest, pc := s.pc, trace := s.trace }

/-- R232: after reset every command except NOP and BUILD fails with NO_ENGINE, and BUILD with
BAD_WIDTH. -/
def Obligations.AfterResetCommandsNeedABuild : Prop :=
  ∀ (p : Params) (i : Instr), let s := State.resetFor p
    (i ≠ .nop → i ≠ .build → exec i s = .next (recorded .noEngine s)) ∧
    exec .build s = .next (recorded .badWidth s) ∧ exec .nop s = .next s

/-! ## The arithmetic -/

/-- R100: the two alignments, their reversal law, and the discarded bits at and above W. -/
def Obligations.PolynomialExpansion : Prop :=
  ∀ (p : Word) (W : Nat), 1 ≤ W → W ≤ 32 →
    polyx p W true = rev32 p >>> (32 - W) ∧ polyx p W false = p <<< (32 - W) ∧
    polyx p W true = rev32 (polyx p W false) ∧
    ∀ refin, polyx p W refin = polyx (p &&& BitVec.ofNat 32 (2 ^ W - 1)) W refin

/-- R101: eight shift/XOR steps from the byte, in the low byte or in bits 31:24; so entry 128 of the
reflected table and entry 1 of the normal one are P (R185). -/
def Obligations.TableEntryIsEightSteps : Prop :=
  ∀ (P : Word) (i : Byte),
    entry P true i = (List.range 8).foldl
      (fun (v : Word) _ => (v >>> 1) ^^^ (if v.getLsbD 0 then P else 0#32)) (i.setWidth 32) ∧
    entry P false i = (List.range 8).foldl
      (fun (v : Word) _ => (v <<< 1) ^^^ (if v.getLsbD 31 then P else 0#32)) (i.setWidth 32 <<< 24) ∧
    entry P true 128 = P ∧ entry P false 1 = P

/-- R105. -/
def Obligations.TableEntriesAreLinear : Prop :=
  ∀ (P : Word) (refin : Bool), entry P refin 0 = 0 ∧
    ∀ a b : Byte, entry P refin (a ^^^ b) = entry P refin a ^^^ entry P refin b

/-- R106. -/
def Obligations.TablesAreReflectionsOfEachOther : Prop :=
  ∀ (p : Word) (W : Nat) (i : Byte), 1 ≤ W → W ≤ 32 →
    entry (polyx p W true) true (rev8 i) = rev32 (entry (polyx p W false) false i)

/-- R33, R107: bits S-1 to 0 are zero when refin is false, bits 31 to W when it is true. -/
def Obligations.TableEntriesAreAligned : Prop :=
  ∀ (p : Word) (W : Nat) (refin : Bool) (i : Byte), 1 ≤ W → W ≤ 32 →
    aligned W refin (entry (polyx p W refin) refin i)

/-- R104: a table depends only on W, POLY and REFIN. -/
def Obligations.TableDependsOnlyOnItsSpecification : Prop :=
  ∀ (s u : State), s.width = u.width → s.poly = u.poly → s.refin = u.refin →
    1 ≤ s.W → s.W ≤ 32 →
    ∃ t : Table, exec .build s = .next { s with table := some t } ∧
      exec .build u = .next { u with table := some t }

/-- R120, bit by bit: with REFIN the low W bits of v reversed at the bottom, otherwise the low W bits of
v at the top; every other bit is 0. -/
def Obligations.InitAlignsTheLowBits : Prop :=
  ∀ (v : Word) (W k : Nat), 1 ≤ W → W ≤ 32 → k < 32 →
    initFn W true v = rev32 v >>> (32 - W) ∧ initFn W false v = v <<< (32 - W) ∧
    (initFn W true v).getLsbD k = (decide (k < W) && v.getLsbD (W - 1 - k)) ∧
    (initFn W false v).getLsbD k = (decide (32 - W ≤ k) && v.getLsbD (k - (32 - W)))

/-- R121. -/
def Obligations.ByteStepUsesOneEntry : Prop :=
  ∀ (t : Table) (r : Word) (b : Byte),
    crcStep t true r b =
      t.entryAt (BitVec.ofNat 8 (((r ^^^ b.setWidth 32) &&& 0xFF#32).toNat)) ^^^ (r >>> 8) ∧
    crcStep t false r b =
      t.entryAt (BitVec.ofNat 8 ((((r >>> 24) ^^^ b.setWidth 32) &&& 0xFF#32).toNat)) ^^^
        (r <<< 8)

/-- R122, in the four flag combinations, and bit by bit: the register is reversed when REFIN and REFOUT
differ, its top W bits go to the bottom when REFOUT is false, and XOROUT is XORed in every bit. -/
def Obligations.FinalizeReflectsShiftsAndMasks : Prop :=
  ∀ (W k : Nat) (x r : Word), 1 ≤ W → W ≤ 32 → k < 32 →
    finFn W true true x r = r ^^^ x ∧ finFn W false false x r = (r >>> (32 - W)) ^^^ x ∧
    finFn W true false x r = (rev32 r >>> (32 - W)) ^^^ x ∧
    finFn W false true x r = rev32 r ^^^ x ∧
    (finFn W false false x r ^^^ x).getLsbD k = (decide (k < W) && r.getLsbD (32 - W + k)) ∧
    (finFn W true false x r ^^^ x).getLsbD k = (decide (k < W) && r.getLsbD (W - 1 - k)) ∧
    (finFn W false true x r ^^^ x).getLsbD k = r.getLsbD (31 - k)

/-- R55 with R101 and R121: a step through a built table is the bit-serial update of the register by the
byte's eight bits, bit 0 first when REFIN is true and bit 7 first when it is false. -/
def Obligations.TableStepIsBitSerial : Prop :=
  ∀ (P : Word) (refin : Bool) (r : Word) (b : Byte),
    crcStep (tableOf P refin) refin r b = bitSerial P refin r b

/-- R129: DINIT and DINITC make aligned registers, a byte step keeps them aligned, and finalizing one
gives a value below 2^W before XOROUT, so below 2^W when XOROUT is; a register that is not aligned need
not, with REFIN = REFOUT = 1 or REFIN = 0 and REFOUT = 1. -/
def Obligations.AlignedRegistersGiveMaskedResults : Prop :=
  ∀ (p v r x : Word) (W : Nat) (refin refout : Bool) (b : Byte), 1 ≤ W → W ≤ 32 →
    aligned W refin (initFn W refin v) ∧
    (aligned W refin r →
      aligned W refin (crcStep (tableOf (polyx p W refin) refin) refin r b) ∧
      (finFn W refin refout x r ^^^ x).toNat < 2 ^ W ∧
      (x.toNat < 2 ^ W → (finFn W refin refout x r).toNat < 2 ^ W)) ∧
    (W < 32 → (∃ q, 2 ^ W ≤ (finFn W true true 0 q).toNat) ∧
      ∃ q, 2 ^ W ≤ (finFn W false true 0 q).toNat)

/-! ## Digests -/

/-- R128: DINIT and FIN with no byte between them give fin_fn(init_fn(INIT)), which is INIT's low W bits,
reversed when REFOUT is 1, XOR XOROUT, whatever REFIN is. -/
def Obligations.EmptyInputChecksum : Prop :=
  ∀ (s : State) (t : Table) (c : CtxNum), s.table = some t → c.toNat < s.params.nCtx →
    1 ≤ s.W → s.W ≤ 32 →
    ∃ u, execAll [.dinit c, .fin c] s = .next u ∧
      u.result = finFn s.W s.refin s.refout s.xorout (initFn s.W s.refin s.init) ∧
      u.result = (if s.refout then
          rev32 (s.init &&& BitVec.ofNat 32 (2 ^ s.W - 1)) >>> (32 - s.W)
        else s.init &&& BitVec.ofNat 32 (2 ^ s.W - 1)) ^^^ s.xorout

/-- R126: the pseudo-instruction CHECKSUM c, B (DINIT, the bytes, FIN, RD RESULT), run by the block step
by step, leaves and returns fin_fn(update(init_fn(INIT), B)). -/
def Obligations.ChecksumIsFinalizeUpdateInit : Prop :=
  ∀ (s : State) (t : Table) (c : CtxNum) (bs : List Byte) (rest : List Input),
    s.table = some t → c.toNat < s.params.nCtx →
    s.pending = (checksum s.params c bs).map Input.access ++ rest →
    ∃ u : State, Host.Core.run Sys2Proof.core (bs.length + 3) s = .next u ∧
      u.result = finFn s.W s.refin s.refout s.xorout
        (bs.foldl (crcStep t s.refin) (initFn s.W s.refin s.init)) ∧
      u.pending = rest ∧
      u.trace = s.trace ++ List.replicate (bs.length + 2) .ack ++ [.data u.result]

/-- R127: after DINIT c, feeding a byte sequence in any chunks, by any mix of UPD and UPDN, leaves
REG[c] = update(init_fn(INIT), the bytes in order); so equal sequences give equal registers however
they are split. -/
def Obligations.ChunkingDoesNotMatter : Prop :=
  ∀ (s : State) (t : Table) (c : CtxNum) (chunks : List Chunk) (rest : List Input),
    s.table = some t → c.toNat < s.params.nCtx → (∀ x ∈ chunks, x.ok) →
    s.pending = (command s.params (.dinit c) ::
      chunks.flatMap (Chunk.accesses s.params c)).map Input.access ++ rest →
    ∃ u : State, Host.Core.run Sys2Proof.core
        ((chunks.flatMap (Chunk.accesses s.params c)).length + 1) s = .next u ∧
      u.pending = rest ∧ u.table = some t ∧
      u.ctx c = some {
        reg := (chunks.flatMap Chunk.bytes).foldl (crcStep t s.refin)
          (initFn s.W s.refin s.init)
        poison := false }
end

