-- ==== Sys2Proof/Laws/Crc.lean ====
section
/-! SUPPORT. Small lemmas of the pure functions: bits of a reversal, one shift/XOR step is XOR-linear,
and an entry of a built table. -/

namespace Sys2Proof.Machine

@[simp] theorem rev32_getLsbD (a : Word) (k : Nat) :
    (rev32 a).getLsbD k = (decide (k < 32) && a.getLsbD (31 - k)) := by
  simp [rev32, BitVec.getLsbD_reverse, BitVec.getMsbD]

@[simp] theorem rev32_getElem (a : Word) (k : Nat) (hk : k < 32) :
    (rev32 a)[k] = a[31 - k] := by
  rw [← BitVec.getLsbD_eq_getElem, rev32_getLsbD, ← BitVec.getLsbD_eq_getElem]
  simp [hk]

theorem rev32_xor (a b : Word) : rev32 (a ^^^ b) = rev32 a ^^^ rev32 b := by
  apply BitVec.eq_of_getElem_eq
  intro k hk
  simp

@[simp] theorem rev32_rev32 (a : Word) : rev32 (rev32 a) = a := by
  apply BitVec.eq_of_getElem_eq
  intro k hk
  have h : 31 - (31 - k) = k := by omega
  simp [h]

@[simp] theorem entrySteps_zero (P : Word) (refin : Bool) (v : Word) :
    entrySteps P refin 0 v = v := rfl

@[simp] theorem entrySteps_succ (P : Word) (refin : Bool) (n : Nat) (v : Word) :
    entrySteps P refin (n + 1) v = entrySteps P refin n (entryStep P refin v) := rfl

theorem entryStep_zero (P : Word) (refin : Bool) : entryStep P refin 0 = 0 := by
  cases refin <;> simp [entryStep]

theorem ite_xor_word (p q : Bool) (P : Word) :
    (if p ^^ q then P else 0#32) = (if p then P else 0#32) ^^^ (if q then P else 0#32) := by
  cases p <;> cases q <;> simp

/-- One step of R101 is XOR-linear in the register. -/
theorem entryStep_xor (P : Word) (refin : Bool) (a b : Word) :
    entryStep P refin (a ^^^ b) = entryStep P refin a ^^^ entryStep P refin b := by
  cases refin
  · simp only [entryStep, BitVec.getLsbD_xor, BitVec.shiftLeft_xor_distrib, Bool.false_eq_true,
      if_false, BitVec.ofNat_eq_ofNat, ite_xor_word]
    ac_rfl
  · simp only [entryStep, BitVec.getLsbD_xor, BitVec.ushiftRight_xor_distrib, if_true,
      BitVec.ofNat_eq_ofNat, ite_xor_word]
    ac_rfl

theorem entrySteps_xor (P : Word) (refin : Bool) (n : Nat) (a b : Word) :
    entrySteps P refin n (a ^^^ b) = entrySteps P refin n a ^^^ entrySteps P refin n b := by
  induction n generalizing a b with
  | zero => rfl
  | succ n ih => simp [entryStep_xor, ih]

theorem entrySeed_xor (refin : Bool) (a b : Byte) :
    entrySeed refin (a ^^^ b) = entrySeed refin a ^^^ entrySeed refin b := by
  cases refin <;> simp [entrySeed, BitVec.setWidth_xor, BitVec.shiftLeft_xor_distrib]

/-- Reversal turns a left shift into a right shift (R100). -/
theorem rev32_shiftLeft (p : Word) (n : Nat) : rev32 (p <<< n) = rev32 p >>> n := by
  apply BitVec.eq_of_getLsbD_eq
  intro k hk
  simp only [BitVec.getLsbD_ushiftRight, rev32_getLsbD, BitVec.getLsbD_shiftLeft]
  by_cases h1 : n + k < 32
  · simp [hk, h1, show ¬ 31 - k < n by omega, show 31 - k < 32 by omega,
      show 31 - k - n = 31 - (n + k) by omega]
  · simp [h1, show 31 - k < n by omega]

/-- TABLE[i] of a built table (R102). -/
@[simp] theorem tableOf_entryAt (P : Word) (refin : Bool) (i : Byte) :
    (tableOf P refin).entryAt i = entry P refin i := by
  simp [tableOf, Table.entryAt]

@[simp] theorem updateBytes_nil (t : Table) (refin : Bool) (r : Word) :
    updateBytes t refin r [] = r := rfl

@[simp] theorem updateBytes_cons (t : Table) (refin : Bool) (r : Word) (b : Byte)
    (bs : List Byte) :
    updateBytes t refin r (b :: bs) = updateBytes t refin (crcStep t refin r b) bs := rfl

theorem updateBytes_append (t : Table) (refin : Bool) (r : Word) (as bs : List Byte) :
    updateBytes t refin r (as ++ bs) = updateBytes t refin (updateBytes t refin r as) bs := by
  simp [updateBytes]

end Sys2Proof.Machine
end

