-- ==== Sys2Proof/Laws/State.lean ====
section
/-! SUPPORT. What each named update of State does to each field, one lemma per field, true by rfl. A
proof rewrites with these and never unfolds a record update. -/

namespace Sys2Proof.Machine

/-! ## raiseCmdError -/

@[simp] theorem raiseCmdError_params (code : ErrCode) (s : State) :
    (raiseCmdError code s).params = s.params := rfl
@[simp] theorem raiseCmdError_ctrl (code : ErrCode) (s : State) :
    (raiseCmdError code s).ctrl = s.ctrl := rfl
@[simp] theorem raiseCmdError_width (code : ErrCode) (s : State) :
    (raiseCmdError code s).width = s.width := rfl
@[simp] theorem raiseCmdError_poly (code : ErrCode) (s : State) :
    (raiseCmdError code s).poly = s.poly := rfl
@[simp] theorem raiseCmdError_init (code : ErrCode) (s : State) :
    (raiseCmdError code s).init = s.init := rfl
@[simp] theorem raiseCmdError_xorout (code : ErrCode) (s : State) :
    (raiseCmdError code s).xorout = s.xorout := rfl
@[simp] theorem raiseCmdError_arg (code : ErrCode) (s : State) :
    (raiseCmdError code s).arg = s.arg := rfl
@[simp] theorem raiseCmdError_result (code : ErrCode) (s : State) :
    (raiseCmdError code s).result = s.result := rfl
@[simp] theorem raiseCmdError_err (code : ErrCode) (s : State) :
    (raiseCmdError code s).err = true := rfl
@[simp] theorem raiseCmdError_errCode (code : ErrCode) (s : State) :
    (raiseCmdError code s).errCode = if s.err then s.errCode else code := rfl
@[simp] theorem raiseCmdError_table (code : ErrCode) (s : State) :
    (raiseCmdError code s).table = s.table := rfl
@[simp] theorem raiseCmdError_ctxs (code : ErrCode) (s : State) :
    (raiseCmdError code s).ctxs = s.ctxs := rfl
@[simp] theorem raiseCmdError_pending (code : ErrCode) (s : State) :
    (raiseCmdError code s).pending = s.pending := rfl
@[simp] theorem raiseCmdError_pc (code : ErrCode) (s : State) :
    (raiseCmdError code s).pc = s.pc := rfl
@[simp] theorem raiseCmdError_trace (code : ErrCode) (s : State) :
    (raiseCmdError code s).trace = s.trace := rfl

/-! ## clearError -/

@[simp] theorem clearError_params (s : State) :
    (clearError s).params = s.params := rfl
@[simp] theorem clearError_ctrl (s : State) :
    (clearError s).ctrl = s.ctrl := rfl
@[simp] theorem clearError_width (s : State) :
    (clearError s).width = s.width := rfl
@[simp] theorem clearError_poly (s : State) :
    (clearError s).poly = s.poly := rfl
@[simp] theorem clearError_init (s : State) :
    (clearError s).init = s.init := rfl
@[simp] theorem clearError_xorout (s : State) :
    (clearError s).xorout = s.xorout := rfl
@[simp] theorem clearError_arg (s : State) :
    (clearError s).arg = s.arg := rfl
@[simp] theorem clearError_result (s : State) :
    (clearError s).result = s.result := rfl
@[simp] theorem clearError_err (s : State) :
    (clearError s).err = false := rfl
@[simp] theorem clearError_errCode (s : State) :
    (clearError s).errCode = .none := rfl
@[simp] theorem clearError_table (s : State) :
    (clearError s).table = s.table := rfl
@[simp] theorem clearError_ctxs (s : State) :
    (clearError s).ctxs = s.ctxs := rfl
@[simp] theorem clearError_pending (s : State) :
    (clearError s).pending = s.pending := rfl
@[simp] theorem clearError_pc (s : State) :
    (clearError s).pc = s.pc := rfl
@[simp] theorem clearError_trace (s : State) :
    (clearError s).trace = s.trace := rfl

/-! ## setCtx -/

@[simp] theorem setCtx_params (s : State) (c : CtxNum) (d : Option Digest) :
    (s.setCtx c d).params = s.params := rfl
@[simp] theorem setCtx_ctrl (s : State) (c : CtxNum) (d : Option Digest) :
    (s.setCtx c d).ctrl = s.ctrl := rfl
@[simp] theorem setCtx_width (s : State) (c : CtxNum) (d : Option Digest) :
    (s.setCtx c d).width = s.width := rfl
@[simp] theorem setCtx_poly (s : State) (c : CtxNum) (d : Option Digest) :
    (s.setCtx c d).poly = s.poly := rfl
@[simp] theorem setCtx_init (s : State) (c : CtxNum) (d : Option Digest) :
    (s.setCtx c d).init = s.init := rfl
@[simp] theorem setCtx_xorout (s : State) (c : CtxNum) (d : Option Digest) :
    (s.setCtx c d).xorout = s.xorout := rfl
@[simp] theorem setCtx_arg (s : State) (c : CtxNum) (d : Option Digest) :
    (s.setCtx c d).arg = s.arg := rfl
@[simp] theorem setCtx_result (s : State) (c : CtxNum) (d : Option Digest) :
    (s.setCtx c d).result = s.result := rfl
@[simp] theorem setCtx_err (s : State) (c : CtxNum) (d : Option Digest) :
    (s.setCtx c d).err = s.err := rfl
@[simp] theorem setCtx_errCode (s : State) (c : CtxNum) (d : Option Digest) :
    (s.setCtx c d).errCode = s.errCode := rfl
@[simp] theorem setCtx_table (s : State) (c : CtxNum) (d : Option Digest) :
    (s.setCtx c d).table = s.table := rfl
@[simp] theorem setCtx_ctxs (s : State) (c : CtxNum) (d : Option Digest) :
    (s.setCtx c d).ctxs = s.ctxs.set c.toNat d c.isLt := rfl
@[simp] theorem setCtx_pending (s : State) (c : CtxNum) (d : Option Digest) :
    (s.setCtx c d).pending = s.pending := rfl
@[simp] theorem setCtx_pc (s : State) (c : CtxNum) (d : Option Digest) :
    (s.setCtx c d).pc = s.pc := rfl
@[simp] theorem setCtx_trace (s : State) (c : CtxNum) (d : Option Digest) :
    (s.setCtx c d).trace = s.trace := rfl

/-! ## destroyEngine -/

@[simp] theorem destroyEngine_params (s : State) :
    (destroyEngine s).params = s.params := rfl
@[simp] theorem destroyEngine_ctrl (s : State) :
    (destroyEngine s).ctrl = s.ctrl := rfl
@[simp] theorem destroyEngine_width (s : State) :
    (destroyEngine s).width = s.width := rfl
@[simp] theorem destroyEngine_poly (s : State) :
    (destroyEngine s).poly = s.poly := rfl
@[simp] theorem destroyEngine_init (s : State) :
    (destroyEngine s).init = s.init := rfl
@[simp] theorem destroyEngine_xorout (s : State) :
    (destroyEngine s).xorout = s.xorout := rfl
@[simp] theorem destroyEngine_arg (s : State) :
    (destroyEngine s).arg = s.arg := rfl
@[simp] theorem destroyEngine_result (s : State) :
    (destroyEngine s).result = s.result := rfl
@[simp] theorem destroyEngine_err (s : State) :
    (destroyEngine s).err = s.err := rfl
@[simp] theorem destroyEngine_errCode (s : State) :
    (destroyEngine s).errCode = s.errCode := rfl
@[simp] theorem destroyEngine_table (s : State) :
    (destroyEngine s).table = none := rfl
@[simp] theorem destroyEngine_ctxs (s : State) :
    (destroyEngine s).ctxs = Vector.replicate 16 none := rfl
@[simp] theorem destroyEngine_pending (s : State) :
    (destroyEngine s).pending = s.pending := rfl
@[simp] theorem destroyEngine_pc (s : State) :
    (destroyEngine s).pc = s.pc := rfl
@[simp] theorem destroyEngine_trace (s : State) :
    (destroyEngine s).trace = s.trace := rfl

/-! ## respond -/

@[simp] theorem respond_params (s : State) (r : Response) :
    (s.respond r).params = s.params := rfl
@[simp] theorem respond_ctrl (s : State) (r : Response) :
    (s.respond r).ctrl = s.ctrl := rfl
@[simp] theorem respond_width (s : State) (r : Response) :
    (s.respond r).width = s.width := rfl
@[simp] theorem respond_poly (s : State) (r : Response) :
    (s.respond r).poly = s.poly := rfl
@[simp] theorem respond_init (s : State) (r : Response) :
    (s.respond r).init = s.init := rfl
@[simp] theorem respond_xorout (s : State) (r : Response) :
    (s.respond r).xorout = s.xorout := rfl
@[simp] theorem respond_arg (s : State) (r : Response) :
    (s.respond r).arg = s.arg := rfl
@[simp] theorem respond_result (s : State) (r : Response) :
    (s.respond r).result = s.result := rfl
@[simp] theorem respond_err (s : State) (r : Response) :
    (s.respond r).err = s.err := rfl
@[simp] theorem respond_errCode (s : State) (r : Response) :
    (s.respond r).errCode = s.errCode := rfl
@[simp] theorem respond_table (s : State) (r : Response) :
    (s.respond r).table = s.table := rfl
@[simp] theorem respond_ctxs (s : State) (r : Response) :
    (s.respond r).ctxs = s.ctxs := rfl
@[simp] theorem respond_pending (s : State) (r : Response) :
    (s.respond r).pending = s.pending := rfl
@[simp] theorem respond_pc (s : State) (r : Response) :
    (s.respond r).pc = s.pc := rfl
@[simp] theorem respond_trace (s : State) (r : Response) :
    (s.respond r).trace = s.trace ++ [r] := rfl

/-! ## received -/

@[simp] theorem accesses_access (a : Access) : (Input.access a).accesses = 1 := rfl
@[simp] theorem accesses_reset : Input.reset.accesses = 0 := rfl

@[simp] theorem received_params (s : State) (e : Input) (rest : List Input) :
    (s.received e rest).params = s.params := rfl
@[simp] theorem received_ctrl (s : State) (e : Input) (rest : List Input) :
    (s.received e rest).ctrl = s.ctrl := rfl
@[simp] theorem received_width (s : State) (e : Input) (rest : List Input) :
    (s.received e rest).width = s.width := rfl
@[simp] theorem received_poly (s : State) (e : Input) (rest : List Input) :
    (s.received e rest).poly = s.poly := rfl
@[simp] theorem received_init (s : State) (e : Input) (rest : List Input) :
    (s.received e rest).init = s.init := rfl
@[simp] theorem received_xorout (s : State) (e : Input) (rest : List Input) :
    (s.received e rest).xorout = s.xorout := rfl
@[simp] theorem received_arg (s : State) (e : Input) (rest : List Input) :
    (s.received e rest).arg = s.arg := rfl
@[simp] theorem received_result (s : State) (e : Input) (rest : List Input) :
    (s.received e rest).result = s.result := rfl
@[simp] theorem received_err (s : State) (e : Input) (rest : List Input) :
    (s.received e rest).err = s.err := rfl
@[simp] theorem received_errCode (s : State) (e : Input) (rest : List Input) :
    (s.received e rest).errCode = s.errCode := rfl
@[simp] theorem received_table (s : State) (e : Input) (rest : List Input) :
    (s.received e rest).table = s.table := rfl
@[simp] theorem received_ctxs (s : State) (e : Input) (rest : List Input) :
    (s.received e rest).ctxs = s.ctxs := rfl
@[simp] theorem received_pending (s : State) (e : Input) (rest : List Input) :
    (s.received e rest).pending = rest := rfl
@[simp] theorem received_pc (s : State) (e : Input) (rest : List Input) :
    (s.received e rest).pc = s.pc + e.accesses := rfl
@[simp] theorem received_trace (s : State) (e : Input) (rest : List Input) :
    (s.received e rest).trace = s.trace := rfl

/-! ## assertReset -/

@[simp] theorem assertReset_params (s : State) :
    (assertReset s).params = s.params := rfl
@[simp] theorem assertReset_ctrl (s : State) :
    (assertReset s).ctrl = 0 := rfl
@[simp] theorem assertReset_width (s : State) :
    (assertReset s).width = 0 := rfl
@[simp] theorem assertReset_poly (s : State) :
    (assertReset s).poly = 0 := rfl
@[simp] theorem assertReset_init (s : State) :
    (assertReset s).init = 0 := rfl
@[simp] theorem assertReset_xorout (s : State) :
    (assertReset s).xorout = 0 := rfl
@[simp] theorem assertReset_arg (s : State) :
    (assertReset s).arg = 0 := rfl
@[simp] theorem assertReset_result (s : State) :
    (assertReset s).result = 0 := rfl
@[simp] theorem assertReset_err (s : State) :
    (assertReset s).err = false := rfl
@[simp] theorem assertReset_errCode (s : State) :
    (assertReset s).errCode = .none := rfl
@[simp] theorem assertReset_table (s : State) :
    (assertReset s).table = none := rfl
@[simp] theorem assertReset_ctxs (s : State) :
    (assertReset s).ctxs = Vector.replicate 16 none := rfl
@[simp] theorem assertReset_pending (s : State) :
    (assertReset s).pending = s.pending := rfl
@[simp] theorem assertReset_pc (s : State) :
    (assertReset s).pc = s.pc := rfl
@[simp] theorem assertReset_trace (s : State) :
    (assertReset s).trace = s.trace := rfl

/-! ## The views of R14 and R30 after an update that leaves their fields alone -/

@[simp] theorem raiseCmdError_W (code : ErrCode) (s : State) : (raiseCmdError code s).W = s.W := rfl
@[simp] theorem raiseCmdError_refin (code : ErrCode) (s : State) : (raiseCmdError code s).refin = s.refin := rfl
@[simp] theorem raiseCmdError_refout (code : ErrCode) (s : State) : (raiseCmdError code s).refout = s.refout := rfl
@[simp] theorem raiseCmdError_tableValid (code : ErrCode) (s : State) : (raiseCmdError code s).tableValid = s.tableValid := rfl
@[simp] theorem raiseCmdError_ctx (code : ErrCode) (s : State) (c : CtxNum) : (raiseCmdError code s).ctx c = s.ctx c := rfl
@[simp] theorem raiseCmdError_live (code : ErrCode) (s : State) (c : CtxNum) : (raiseCmdError code s).live c = s.live c := rfl
@[simp] theorem raiseCmdError_ctxExists (code : ErrCode) (s : State) (c : CtxNum) : (raiseCmdError code s).ctxExists c = s.ctxExists c := rfl
@[simp] theorem clearError_W (s : State) : (clearError s).W = s.W := rfl
@[simp] theorem clearError_refin (s : State) : (clearError s).refin = s.refin := rfl
@[simp] theorem clearError_refout (s : State) : (clearError s).refout = s.refout := rfl
@[simp] theorem clearError_tableValid (s : State) : (clearError s).tableValid = s.tableValid := rfl
@[simp] theorem clearError_ctx (s : State) (c : CtxNum) : (clearError s).ctx c = s.ctx c := rfl
@[simp] theorem clearError_live (s : State) (c : CtxNum) : (clearError s).live c = s.live c := rfl
@[simp] theorem clearError_ctxExists (s : State) (c : CtxNum) : (clearError s).ctxExists c = s.ctxExists c := rfl
@[simp] theorem setCtx_W (s : State) (c : CtxNum) (d : Option Digest) : (s.setCtx c d).W = s.W := rfl
@[simp] theorem setCtx_refin (s : State) (c : CtxNum) (d : Option Digest) : (s.setCtx c d).refin = s.refin := rfl
@[simp] theorem setCtx_refout (s : State) (c : CtxNum) (d : Option Digest) : (s.setCtx c d).refout = s.refout := rfl
@[simp] theorem setCtx_tableValid (s : State) (c : CtxNum) (d : Option Digest) : (s.setCtx c d).tableValid = s.tableValid := rfl
@[simp] theorem setCtx_ctxExists (s : State) (c : CtxNum) (d : Option Digest) (k : CtxNum) : (s.setCtx c d).ctxExists k = s.ctxExists k := rfl
@[simp] theorem destroyEngine_W (s : State) : (destroyEngine s).W = s.W := rfl
@[simp] theorem destroyEngine_refin (s : State) : (destroyEngine s).refin = s.refin := rfl
@[simp] theorem destroyEngine_refout (s : State) : (destroyEngine s).refout = s.refout := rfl
@[simp] theorem destroyEngine_ctxExists (s : State) (c : CtxNum) : (destroyEngine s).ctxExists c = s.ctxExists c := rfl
@[simp] theorem respond_W (s : State) (r : Response) : (s.respond r).W = s.W := rfl
@[simp] theorem respond_refin (s : State) (r : Response) : (s.respond r).refin = s.refin := rfl
@[simp] theorem respond_refout (s : State) (r : Response) : (s.respond r).refout = s.refout := rfl
@[simp] theorem respond_tableValid (s : State) (r : Response) : (s.respond r).tableValid = s.tableValid := rfl
@[simp] theorem respond_ctx (s : State) (r : Response) (c : CtxNum) : (s.respond r).ctx c = s.ctx c := rfl
@[simp] theorem respond_live (s : State) (r : Response) (c : CtxNum) : (s.respond r).live c = s.live c := rfl
@[simp] theorem respond_ctxExists (s : State) (r : Response) (c : CtxNum) : (s.respond r).ctxExists c = s.ctxExists c := rfl
@[simp] theorem received_W (s : State) (e : Input) (rest : List Input) : (s.received e rest).W = s.W := rfl
@[simp] theorem received_refin (s : State) (e : Input) (rest : List Input) : (s.received e rest).refin = s.refin := rfl
@[simp] theorem received_refout (s : State) (e : Input) (rest : List Input) : (s.received e rest).refout = s.refout := rfl
@[simp] theorem received_tableValid (s : State) (e : Input) (rest : List Input) : (s.received e rest).tableValid = s.tableValid := rfl
@[simp] theorem received_ctx (s : State) (e : Input) (rest : List Input) (c : CtxNum) : (s.received e rest).ctx c = s.ctx c := rfl
@[simp] theorem received_live (s : State) (e : Input) (rest : List Input) (c : CtxNum) : (s.received e rest).live c = s.live c := rfl
@[simp] theorem received_ctxExists (s : State) (e : Input) (rest : List Input) (c : CtxNum) : (s.received e rest).ctxExists c = s.ctxExists c := rfl
@[simp] theorem assertReset_ctxExists (s : State) (c : CtxNum) : (assertReset s).ctxExists c = s.ctxExists c := rfl

end Sys2Proof.Machine
end

