-- ==== Sys2Proof/Laws/Ops.lean ====
section
/-! SUPPORT. What each shared operation of Machine/Ops.lean can do, said once: contexts read after
writes, and the checks of R201 with the cases their answer comes from. -/

namespace Sys2Proof.Machine

/-! ## Contexts -/

@[simp] theorem ctx_setCtx_self (s : State) (c : CtxNum) (d : Option Digest) :
    (s.setCtx c d).ctx c = d := by
  simp [State.ctx, State.setCtx]

theorem ctx_setCtx_of_ne (s : State) {c k : CtxNum} (d : Option Digest) (h : k ≠ c) :
    (s.setCtx c d).ctx k = s.ctx k := by
  have : c.toNat ≠ k.toNat := fun e => h (BitVec.eq_of_toNat_eq e.symm)
  simp [State.ctx, State.setCtx, Vector.getElem_set_ne _ _ this]

theorem ctx_setCtx (s : State) (c k : CtxNum) (d : Option Digest) :
    (s.setCtx c d).ctx k = if k = c then d else s.ctx k := by
  split
  · subst k; simp
  · exact ctx_setCtx_of_ne s d ‹_›

@[simp] theorem ctx_destroyEngine (s : State) (c : CtxNum) : (destroyEngine s).ctx c = none := by
  simp [State.ctx, destroyEngine]

@[simp] theorem ctx_resetFor (p : Params) (c : CtxNum) : (State.resetFor p).ctx c = none := by
  simp [State.ctx, State.resetFor]

@[simp] theorem ctx_assertReset (s : State) (c : CtxNum) : (assertReset s).ctx c = none := by
  simp [State.ctx]

theorem setCtx_setCtx_self (s : State) (c : CtxNum) (d e : Option Digest) :
    (s.setCtx c d).setCtx c e = s.setCtx c e := by
  simp [State.setCtx]

theorem setCtx_comm (s : State) {c k : CtxNum} (d e : Option Digest) (h : c ≠ k) :
    (s.setCtx c d).setCtx k e = (s.setCtx k e).setCtx c d := by
  have : c.toNat ≠ k.toNat := fun e => h (BitVec.eq_of_toNat_eq e)
  simp [State.setCtx, Vector.set_comm _ _ this]

theorem live_eq_true_iff (s : State) (c : CtxNum) : s.live c = true ↔ ∃ d, s.ctx c = some d := by
  simp [State.live, Option.isSome_iff_exists]

theorem ctxExists_iff (s : State) (c : CtxNum) :
    s.ctxExists c = true ↔ c.toNat < s.params.nCtx := by
  simp [State.ctxExists]

/-! ## The checks of R201 -/

theorem withEngine_none {s : State} (h : s.table = none) (k : Table → Result) :
    withEngine s k = .next (raiseCmdError .noEngine s) := by
  simp [withEngine, h]

theorem withEngine_some {s : State} {t : Table} (h : s.table = some t) (k : Table → Result) :
    withEngine s k = k t := by
  simp [withEngine, h]

theorem withCtx_ok {s : State} {t : Table} {c : CtxNum} (h : s.table = some t)
    (hc : c.toNat < s.params.nCtx) (k : Table → Result) : withCtx s c k = k t := by
  simp [withCtx, withEngine, h, State.ctxExists, hc]

theorem withCtx_badCtx {s : State} {t : Table} {c : CtxNum} (h : s.table = some t)
    (hc : s.params.nCtx ≤ c.toNat) (k : Table → Result) :
    withCtx s c k = .next (raiseCmdError .badCtx s) := by
  simp [withCtx, withEngine, h, State.ctxExists, Nat.not_lt.mpr hc]

theorem withCtx_none {s : State} {c : CtxNum} (h : s.table = none) (k : Table → Result) :
    withCtx s c k = .next (raiseCmdError .noEngine s) := by
  simp [withCtx, withEngine, h]

theorem withDigest_ok {s : State} {t : Table} {c : CtxNum} {d : Digest} (h : s.table = some t)
    (hc : c.toNat < s.params.nCtx) (hd : s.ctx c = some d) (k : Table → Digest → Result) :
    withDigest s c k = k t d := by
  simp [withDigest, withCtx_ok h hc, hd]

theorem withDigest_notLive {s : State} {t : Table} {c : CtxNum} (h : s.table = some t)
    (hc : c.toNat < s.params.nCtx) (hd : s.ctx c = none) (k : Table → Digest → Result) :
    withDigest s c k = .next (raiseCmdError .notLive s) := by
  simp [withDigest, withCtx_ok h hc, hd]

theorem withDigest_badCtx {s : State} {t : Table} {c : CtxNum} (h : s.table = some t)
    (hc : s.params.nCtx ≤ c.toNat) (k : Table → Digest → Result) :
    withDigest s c k = .next (raiseCmdError .badCtx s) := by
  simp [withDigest, withCtx_badCtx h hc]

theorem withDigest_none {s : State} {c : CtxNum} (h : s.table = none)
    (k : Table → Digest → Result) :
    withDigest s c k = .next (raiseCmdError .noEngine s) := by
  simp [withDigest, withCtx_none h]

/-- Everything withEngine can answer. -/
theorem withEngine_cases {s : State} {k : Table → Result} {x : Result} (h : withEngine s k = x) :
    (s.table = none ∧ x = .next (raiseCmdError .noEngine s)) ∨
      ∃ t, s.table = some t ∧ k t = x := by
  cases ht : s.table with
  | none => exact .inl ⟨rfl, by rw [← h, withEngine_none ht]⟩
  | some t => exact .inr ⟨t, rfl, by rw [← h, withEngine_some ht]⟩

/-- Everything withCtx can answer. -/
theorem withCtx_cases {s : State} {c : CtxNum} {k : Table → Result} {x : Result}
    (h : withCtx s c k = x) :
    (s.table = none ∧ x = .next (raiseCmdError .noEngine s)) ∨
      ∃ t, s.table = some t ∧
        ((s.params.nCtx ≤ c.toNat ∧ x = .next (raiseCmdError .badCtx s)) ∨
          (c.toNat < s.params.nCtx ∧ k t = x)) := by
  cases ht : s.table with
  | none => exact .inl ⟨rfl, by rw [← h, withCtx_none ht]⟩
  | some t =>
    refine .inr ⟨t, rfl, ?_⟩
    rcases Nat.lt_or_ge c.toNat s.params.nCtx with hc | hc
    · exact .inr ⟨hc, by rw [← h, withCtx_ok ht hc]⟩
    · exact .inl ⟨hc, by rw [← h, withCtx_badCtx ht hc]⟩

/-- Everything withDigest can answer. -/
theorem withDigest_cases {s : State} {c : CtxNum} {k : Table → Digest → Result} {x : Result}
    (h : withDigest s c k = x) :
    (s.table = none ∧ x = .next (raiseCmdError .noEngine s)) ∨
      ∃ t, s.table = some t ∧
        ((s.params.nCtx ≤ c.toNat ∧ x = .next (raiseCmdError .badCtx s)) ∨
          (c.toNat < s.params.nCtx ∧
            ((s.ctx c = none ∧ x = .next (raiseCmdError .notLive s)) ∨
              ∃ d, s.ctx c = some d ∧ k t d = x))) := by
  rcases withCtx_cases h with h | ⟨t, ht, h | ⟨hc, h⟩⟩
  · exact .inl h
  · exact .inr ⟨t, ht, .inl h⟩
  · refine .inr ⟨t, ht, .inr ⟨hc, ?_⟩⟩
    cases hd : s.ctx c with
    | none => exact .inl ⟨rfl, by rw [← h, hd]⟩
    | some d => exact .inr ⟨d, rfl, by rw [← h, hd]⟩

end Sys2Proof.Machine
end

