-- ==== Sys2Proof/Laws/Step.lean ====
section
/-! SUPPORT. The arms of exec, the accesses a host makes through the register map, and one step, each as
an equation. -/

namespace Sys2Proof.Machine

/-! ## The arms -/

@[simp] theorem exec_nop (s : State) : exec .nop s = execNop s := rfl
@[simp] theorem exec_build (s : State) : exec .build s = execBuild s := rfl
@[simp] theorem exec_dinit (c : CtxNum) (s : State) : exec (.dinit c) s = execDinit c s := rfl
@[simp] theorem exec_dinitc (c : CtxNum) (s : State) : exec (.dinitc c) s = execDinitc c s := rfl
@[simp] theorem exec_upd (c : CtxNum) (b : Byte) (s : State) :
    exec (.upd c b) s = execUpd c b s := rfl
@[simp] theorem exec_updn (c : CtxNum) (n : Nat) (s : State) :
    exec (.updn c n) s = execUpdn c n s := rfl
@[simp] theorem exec_updv (c : CtxNum) (s : State) : exec (.updv c) s = execUpdv c s := rfl
@[simp] theorem exec_fin (c : CtxNum) (s : State) : exec (.fin c) s = execFin c s := rfl
@[simp] theorem exec_rdtbl (i : Byte) (s : State) : exec (.rdtbl i) s = execRdtbl i s := rfl
@[simp] theorem exec_rdreg (c : CtxNum) (s : State) : exec (.rdreg c) s = execRdreg c s := rfl
@[simp] theorem exec_ldreg (c : CtxNum) (s : State) : exec (.ldreg c) s = execLdreg c s := rfl

/-! ## The register map -/

theorem windowOffset_add (p : Params) {off : Nat} (h : off < 0x40) :
    windowOffset p (p.base + off) = some off := by
  simp [windowOffset, h]

theorem windowOffset_eq_none_iff (p : Params) (addr : Nat) :
    windowOffset p addr = none ↔ addr < p.base ∨ p.base + 0x40 ≤ addr := by
  unfold windowOffset
  split <;> simp <;> omega

theorem windowOffset_eq_some_iff (p : Params) (addr off : Nat) :
    windowOffset p addr = some off ↔ off < 0x40 ∧ addr = p.base + off := by
  unfold windowOffset
  split <;> simp <;> omega

@[simp] theorem selectReg_offset (r : Reg) : selectReg r.offset 32 = some r := by
  cases r <;> rfl

/-- Every access that reaches a register is a 32-bit access at its offset. -/
theorem selectReg_eq_some {off bits : Nat} {r : Reg} (h : selectReg off bits = some r) :
    bits = 32 ∧ off = r.offset := by
  unfold selectReg at h
  split at h
  · rename_i hb
    refine ⟨hb.1, ?_⟩
    unfold regAt at h
    split at h <;> simp_all <;> subst h <;> rfl
  · cases h

theorem offset_lt (r : Reg) : r.offset < 0x40 := by cases r <;> decide

/-- The LIVE bits of STATUS depend on LIVE alone. -/
theorem liveBits_congr {s u : State} (h : ∀ c, u.live c = s.live c) (n : Nat) :
    liveBits u n = liveBits s n := by
  induction n with
  | zero => rfl
  | succ n ih => simp [liveBits, ih, h]

/-- What a register reads as does not depend on the host's side of the run. -/
@[simp] theorem readReg_received (r : Reg) (s : State) (e : Input) (rest : List Input) :
    readReg r (s.received e rest) = readReg r s := by
  have h := liveBits_congr (s := s) (u := s.received e rest) (by simp) s.params.nCtx
  cases r <;> simp [readReg, statusWord, h]

@[simp] theorem readReg_respond (r : Reg) (s : State) (x : Response) :
    readReg r (s.respond x) = readReg r s := by
  have h := liveBits_congr (s := s) (u := s.respond x) (by simp) s.params.nCtx
  cases r <;> simp [readReg, statusWord, h]

/-- A legal read of a readable register (R170). -/
theorem busRead_reg {s : State} {r : Reg} {v : Word} (h : readReg r s = some v) :
    busRead (s.params.base + r.offset) 32 s = .next (s.respond (.data v)) := by
  simp [busRead, windowOffset_add _ (offset_lt r), h]

/-- A legal write reaches the register's write rule. -/
theorem busWrite_reg (s : State) (r : Reg) (v : Word) :
    busWrite (s.params.base + r.offset) 32 v s = writeReg r v s := by
  simp [busWrite, windowOffset_add _ (offset_lt r)]

/-- Everything a bus read can do. -/
theorem busRead_cases (addr bits : Nat) (s : State) :
    busRead addr bits s = .fault .outsideWindow ∨
      ∃ r, busRead addr bits s = .next (s.respond r) := by
  unfold busRead
  split
  · exact .inl rfl
  · split
    · exact .inr ⟨_, rfl⟩
    · split
      · exact .inr ⟨_, rfl⟩
      · exact .inr ⟨_, rfl⟩

/-- Everything a bus write can do. -/
theorem busWrite_cases (addr bits : Nat) (v : Word) (s : State) :
    busWrite addr bits v s = .fault .outsideWindow ∨
      busWrite addr bits v s = .next (s.respond .busError) ∨
      ∃ r : Reg, addr = s.params.base + r.offset ∧ bits = 32 ∧
        busWrite addr bits v s = writeReg r v s := by
  cases hw : windowOffset s.params addr with
  | none => exact .inl (by simp [busWrite, hw])
  | some off =>
    cases hr : selectReg off bits with
    | none => exact .inr (.inl (by simp [busWrite, hw, hr, busError]))
    | some r =>
      obtain ⟨hb, ho⟩ := selectReg_eq_some hr
      obtain ⟨-, ha⟩ := (windowOffset_eq_some_iff _ _ _).mp hw
      exact .inr (.inr ⟨r, by rw [ha, ho], hb, by simp [busWrite, hw, hr]⟩)

/-! ## One step -/

@[simp] theorem step_nil {s : State} (h : s.pending = []) :
    step s = .refused .sequenceExhausted := by
  simp [step, h]

theorem step_cons {s : State} {e : Input} {rest : List Input} (h : s.pending = e :: rest) :
    step s = serve e (s.received e rest) := by
  simp [step, h]

/-- A step that answers a next state served one input. -/
theorem step_next {s s' : State} (h : step s = .next s') :
    ∃ e rest, s.pending = e :: rest ∧ serve e (s.received e rest) = .next s' := by
  cases hp : s.pending with
  | nil => rw [step_nil hp] at h; cases h
  | cons e rest => exact ⟨e, rest, rfl, by rw [← h, step_cons hp]⟩

end Sys2Proof.Machine
end

