-- ==== Sys2Proof/Laws/Decode.lean ====
section
/-! SUPPORT. What decode answers, said once, and the bits of a command word's fields. -/

namespace Sys2Proof

/-- The word's RSV and the fields its opcode does not use are 0 (R75, R76). -/
def fieldsOk (w : Word) : Prop :=
  rsvField w = 0 ∧ ((uses (opcField w).toNat).ctx = true ∨ ctxField w = 0) ∧
    ((uses (opcField w).toNat).n = true ∨ nField w = 0) ∧
    ((uses (opcField w).toNat).imm8 = true ∨ imm8Field w = 0)

theorem commandOf_isSome {opc : Nat} (h : opc < 0xB) (c : CtxNum) (n : Nat) (imm : Byte) :
    (commandOf opc c n imm).isSome = true := by
  interval_cases opc <;> rfl

theorem commandOf_reserved {opc : Nat} (h : 0xB ≤ opc) (c : CtxNum) (n : Nat) (imm : Byte) :
    commandOf opc c n imm = none := by
  unfold commandOf
  split <;> first | rfl | omega

/-- decode gives i exactly for a word whose unused fields are 0 and whose opcode stands for i. -/
theorem decode_eq_ok_iff (w : Word) (i : Instr) :
    decode w = .ok i ↔ fieldsOk w ∧
      commandOf (opcField w).toNat (ctxField w) ((nField w).toNat + 1) (imm8Field w) = some i := by
  unfold decode fieldsOk
  by_cases h0 : 0xB ≤ (opcField w).toNat
  · simp [h0, commandOf_reserved h0]
  · simp only [h0, if_false]
    generalize hk : commandOf _ _ _ _ = k
    cases hc : (uses (opcField w).toNat).ctx <;> cases hn : (uses (opcField w).toNat).n <;>
      cases hi : (uses (opcField w).toNat).imm8 <;>
      by_cases h1 : rsvField w = 0 <;> by_cases h2 : ctxField w = 0 <;>
      by_cases h3 : nField w = 0 <;> by_cases h4 : imm8Field w = 0 <;>
      cases k <;> simp_all

/-- Every other word is ILLEGAL. -/
theorem decode_error_of_not (w : Word) (h : ¬ ((opcField w).toNat < 0xB ∧ fieldsOk w)) :
    ∃ e, decode w = .error e := by
  cases hd : decode w with
  | error e => exact ⟨e, rfl⟩
  | ok i =>
    obtain ⟨hf, hk⟩ := (decode_eq_ok_iff w i).mp hd
    refine absurd ⟨?_, hf⟩ h
    by_contra hlt
    rw [commandOf_reserved (Nat.le_of_not_lt hlt)] at hk
    cases hk

/-- A word is made of its five fields (R71). -/
theorem word_of_fields (w : Word) :
    w = (opcField w).setWidth 32 <<< 28 ||| (ctxField w).setWidth 32 <<< 24 |||
      (rsvField w).setWidth 32 <<< 10 ||| (nField w).setWidth 32 <<< 8 |||
      (imm8Field w).setWidth 32 := by
  apply BitVec.eq_of_getLsbD_eq
  intro k hk
  interval_cases k <;> simp [opcField, ctxField, rsvField, nField, imm8Field]

end Sys2Proof

namespace Sys2Proof.Machine

/-- A write of a legal word executes its command. -/
theorem writeCmd_ok {w : Word} {i : Instr} (h : decode w = .ok i) (s : State) :
    writeCmd w s = exec i s := by
  simp [writeCmd, h]

/-- A write of any other word records ILLEGAL_CMD. -/
theorem writeCmd_error {w : Word} {e : Illegal} (h : decode w = .error e) (s : State) :
    writeCmd w s = .next (raiseCmdError .illegalCmd s) := by
  simp [writeCmd, h]

end Sys2Proof.Machine
end

