-- ==== Sys2Proof/Laws/Exec.lean ====
section
/-! SUPPORT. Everything a command, a CMD write and a register write can do, said once; a proof about
every command or every step splits one of these and unfolds no meaning. -/

namespace Sys2Proof.Machine

/-! ## Commands -/

/-- What a command leaves when it raises no error. -/
inductive Effect (i : Instr) (s : State) : State → Prop where
  | nop (hi : i = .nop) : Effect i s s
  | build (hi : i = .build) (hW : 1 ≤ s.W ∧ s.W ≤ 32) :
      Effect i s { s with table := some (tableOf (polyx s.poly s.W s.refin) s.refin) }
  | rdtbl (t : Table) (k : Byte) (ht : s.table = some t) (hi : i = .rdtbl k) :
      Effect i s { s with result := t.entryAt k }
  | create (c : CtxNum) (r : Word) (hv : s.tableValid = true) (hc : c.toNat < s.params.nCtx)
      (hi : i = .dinit c ∨ i = .dinitc c ∨ i = .ldreg c) : Effect i s (createDigest s c r)
  | skip (c : CtxNum) (d : Digest) (hd : s.ctx c = some d) (hp : d.poison = true)
      (hi : usesCtx i = some c) : Effect i s s
  | feed (c : CtxNum) (d : Digest) (r : Word) (hd : s.ctx c = some d) (hp : d.poison = false)
      (hi : usesCtx i = some c) : Effect i s (s.setCtx c (some { reg := r, poison := d.poison }))
  | reject (c : CtxNum) (d : Digest) (hd : s.ctx c = some d) (hv : s.params.validate = .active)
      (hi : i = .updv c) : Effect i s (s.setCtx c (some { d with poison := true }))
  | fin (c : CtxNum) (d : Digest) (v : Word) (hd : s.ctx c = some d) (hi : i = .fin c) :
      Effect i s (({ s with result := v } : State).setCtx c none)
  | rdreg (c : CtxNum) (d : Digest) (v : Word) (hd : s.ctx c = some d) (hi : i = .rdreg c) :
      Effect i s { s with result := v }

theorem withEngine_next {s : State} {k : Table → Result} {P : State → Prop}
    (hr : ∀ code, code ≠ .none → P (raiseCmdError code s))
    (hk : ∀ t, s.table = some t → ∃ u, k t = .next u ∧ P u) :
    ∃ u, withEngine s k = .next u ∧ P u := by
  rcases withEngine_cases (k := k) rfl with ⟨-, h⟩ | ⟨t, ht, h⟩
  · exact ⟨_, h, hr _ (by simp)⟩
  · exact h ▸ hk t ht

theorem withCtx_next {s : State} {c : CtxNum} {k : Table → Result} {P : State → Prop}
    (hr : ∀ code, code ≠ .none → P (raiseCmdError code s))
    (hk : ∀ t, s.table = some t → c.toNat < s.params.nCtx → ∃ u, k t = .next u ∧ P u) :
    ∃ u, withCtx s c k = .next u ∧ P u := by
  rcases withCtx_cases (k := k) rfl with ⟨-, h⟩ | ⟨t, ht, ⟨-, h⟩ | ⟨hc, h⟩⟩
  · exact ⟨_, h, hr _ (by simp)⟩
  · exact ⟨_, h, hr _ (by simp)⟩
  · exact h ▸ hk t ht hc

theorem withDigest_next {s : State} {c : CtxNum} {k : Table → Digest → Result}
    {P : State → Prop} (hr : ∀ code, code ≠ .none → P (raiseCmdError code s))
    (hk : ∀ t d, s.ctx c = some d → ∃ u, k t d = .next u ∧ P u) :
    ∃ u, withDigest s c k = .next u ∧ P u := by
  refine withCtx_next hr fun t _ _ => ?_
  cases hd : s.ctx c with
  | none => exact ⟨_, rfl, hr _ (by simp)⟩
  | some d => exact hk t d hd

/-- Every command answers a next state: an error recorded, or its effect. -/
theorem exec_cases (i : Instr) (s : State) :
    ∃ u, exec i s = .next u ∧
      ((∃ code, code ≠ .none ∧ u = raiseCmdError code s) ∨ Effect i s u) := by
  have hr : ∀ code, code ≠ .none →
      (∃ k, k ≠ ErrCode.none ∧ raiseCmdError code s = raiseCmdError k s) ∨
        Effect i s (raiseCmdError code s) := fun code h => .inl ⟨code, h, rfl⟩
  have hv : ∀ t, s.table = some t → s.tableValid = true := fun t h => by simp [State.tableValid, h]
  cases i with
  | nop => exact ⟨_, rfl, .inr (.nop rfl)⟩
  | build =>
    by_cases h : 1 ≤ s.W ∧ s.W ≤ 32
    · exact ⟨_, if_pos h, .inr (.build rfl h)⟩
    · exact ⟨_, if_neg h, hr _ (by simp)⟩
  | rdtbl k => exact withEngine_next hr fun t ht => ⟨_, rfl, .inr (.rdtbl t k ht rfl)⟩
  | dinit c =>
    exact withCtx_next hr fun t ht hc => ⟨_, rfl, .inr (.create c _ (hv t ht) hc (by simp))⟩
  | dinitc c =>
    exact withCtx_next hr fun t ht hc => ⟨_, rfl, .inr (.create c _ (hv t ht) hc (by simp))⟩
  | ldreg c =>
    exact withCtx_next hr fun t ht hc => ⟨_, rfl, .inr (.create c _ (hv t ht) hc (by simp))⟩
  | upd c b =>
    refine withDigest_next hr fun t d hd => ⟨_, rfl, .inr ?_⟩
    split
    · exact .skip c d hd ‹_› rfl
    · exact .feed c d _ hd (Bool.eq_false_iff.mpr ‹_›) rfl
  | updn c n =>
    refine withDigest_next hr fun t d hd => ⟨_, rfl, .inr ?_⟩
    split
    · exact .skip c d hd ‹_› rfl
    · exact .feed c d _ hd (Bool.eq_false_iff.mpr ‹_›) rfl
  | updv c =>
    refine withDigest_next hr fun t d hd => ⟨_, rfl, .inr ?_⟩
    split
    · exact .skip c d hd ‹_› rfl
    · split
      · exact .feed c d _ hd (Bool.eq_false_iff.mpr ‹_›) rfl
      · rename_i h
        refine .reject c d hd ?_ rfl
        cases hs : s.params.validate
        · simp [validateByte, hs] at h
        · rfl
  | fin c => exact withDigest_next hr fun t d hd => ⟨_, rfl, .inr (.fin c d _ hd rfl)⟩
  | rdreg c => exact withDigest_next hr fun t d hd => ⟨_, rfl, .inr (.rdreg c d _ hd rfl)⟩

/-! ## Writes -/

/-- Everything a write of CMD can do. -/
theorem writeCmd_cases {v : Word} {s u : State} (h : writeCmd v s = .next u) :
    (u = raiseCmdError .illegalCmd s ∧ ∃ e, decode v = .error e) ∨
      ∃ i, decode v = .ok i ∧ exec i s = .next u := by
  cases hd : decode v with
  | error e =>
    rw [writeCmd_error hd] at h
    exact .inl ⟨(Host.Outcome.next.inj h).symm, e, rfl⟩
  | ok i =>
    rw [writeCmd_ok hd] at h
    exact .inr ⟨i, rfl, h⟩

/-- What a write of a specification register stores before the engine is destroyed. -/
inductive SpecStore (v : Word) (s : State) : Reg → State → Prop where
  | ctrl : SpecStore v s .ctrl { s with ctrl := v.setWidth 2 }
  | width : SpecStore v s .width { s with width := v.setWidth 6 }
  | poly : SpecStore v s .poly { s with poly := v }
  | init : SpecStore v s .init { s with init := v }
  | xorout : SpecStore v s .xorout { s with xorout := v }

/-- Everything a legal-sized write of a register can do. -/
theorem writeReg_cases {r : Reg} {v : Word} {s u : State} (h : writeReg r v s = .next u) :
    ((r = .param ∨ r = .result) ∧ u = s.respond .busError) ∨
      (∃ x, SpecStore v (s.respond .ack) r x ∧ u = destroyEngine x) ∨
      (r = .arg ∧ u = writeArg v (s.respond .ack)) ∨
      (r = .status ∧ u = writeStatus v (s.respond .ack)) ∨
      (r = .cmd ∧ writeCmd v (s.respond .ack) = .next u) := by
  cases r <;> simp only [writeReg] at h
  case cmd => exact .inr (.inr (.inr (.inr ⟨rfl, h⟩)))
  all_goals have h := (Host.Outcome.next.inj h).symm
  case param => exact .inl ⟨.inl rfl, h⟩
  case result => exact .inl ⟨.inr rfl, h⟩
  case arg => exact .inr (.inr (.inl ⟨rfl, h⟩))
  case status => exact .inr (.inr (.inr (.inl ⟨rfl, h⟩)))
  all_goals exact .inr (.inl ⟨_, by constructor, h⟩)

theorem writeStatus_cases (v : Word) (s : State) :
    writeStatus v s = s ∨ writeStatus v s = clearError s := by
  unfold writeStatus
  split
  · exact .inr rfl
  · exact .inl rfl

/-! ## The LIVE bits of STATUS -/

theorem liveBits_low (s : State) (n : Nat) {k : Nat} (h : k < 16) :
    (liveBits s n).getLsbD k = false := by
  induction n with
  | zero => simp [liveBits]
  | succ n ih => simp [liveBits, ih]; omega

/-- STATUS[16 + k] is LIVE[k] for the contexts of the instance (R182). -/
theorem liveBits_high (s : State) {n k : Nat} (hn : n ≤ 16) (h : k < 16) :
    (liveBits s n).getLsbD (16 + k) = (decide (k < n) && s.live (BitVec.ofNat 4 k)) := by
  induction n with
  | zero => simp [liveBits]
  | succ n ih =>
    have hb : (bit (s.live (BitVec.ofNat 4 n)) <<< (16 + n)).getLsbD (16 + k) =
        (decide (k = n) && s.live (BitVec.ofNat 4 n)) := by
      cases s.live (BitVec.ofNat 4 n)
      · simp [bit]
      · simp only [bit, if_true, BitVec.ofNat_eq_ofNat, BitVec.getLsbD_shiftLeft,
          BitVec.getLsbD_one, Bool.and_true]
        by_cases hk : k = n
        · subst hk; simp; omega
        · simp [hk]; omega
    rw [liveBits, BitVec.getLsbD_or, ih (by omega), hb]
    rcases Nat.lt_trichotomy k n with hk | rfl | hk
    · simp [show k < n + 1 by omega, hk, show k ≠ n by omega]
    · simp
    · simp [show ¬ k < n + 1 by omega, show ¬ k < n by omega, show k ≠ n by omega]

end Sys2Proof.Machine
end

