-- ==== Sys2Proof/Laws/PerInstr.lean ====
section
/-! SUPPORT. Facts about every command as a term, one lemma per constructor. -/

namespace Sys2Proof.Laws.EncodeMatchesRow

/-- The word of a well-formed command is one of its mnemonic's row in the opcode map (R77). -/
def Statement (i : Instr) : Prop :=
  i.wf = true → opcodeRows.any (fun r => r.mnemonic == i.mnemonic && r.matches (encode i)) = true

theorem nop : Statement .nop := by intro _; decide +kernel
theorem build : Statement .build := by intro _; decide +kernel
theorem dinit (c : CtxNum) : Statement (.dinit c) := by intro _; revert c; decide +kernel
theorem dinitc (c : CtxNum) : Statement (.dinitc c) := by intro _; revert c; decide +kernel
theorem upd (c : CtxNum) (b : Byte) : Statement (.upd c b) := by
  have h : (0x40000000#32 ||| ctxBits c ||| b.setWidth 32) &&& 0xF0FFFF00#32 = 0x40000000#32 := by
    apply BitVec.eq_of_getLsbD_eq
    intro k hk
    interval_cases k <;> simp [ctxBits]
  intro _
  simp [opcodeRows, Row.matches, encode, Instr.mnemonic, h]
theorem updn (c : CtxNum) (n : Nat) : Statement (.updn c n) := by
  intro h
  obtain ⟨h1, h4⟩ : 1 ≤ n ∧ n ≤ 4 := by simpa [Instr.wf] using h
  obtain rfl | rfl | rfl | rfl : n = 1 ∨ n = 2 ∨ n = 3 ∨ n = 4 := by omega
  all_goals clear h h1 h4; revert c; decide +kernel
theorem updv (c : CtxNum) : Statement (.updv c) := by intro _; revert c; decide +kernel
theorem fin (c : CtxNum) : Statement (.fin c) := by intro _; revert c; decide +kernel
theorem rdtbl (i : Byte) : Statement (.rdtbl i) := by intro _; revert i; decide +kernel
theorem rdreg (c : CtxNum) : Statement (.rdreg c) := by intro _; revert c; decide +kernel
theorem ldreg (c : CtxNum) : Statement (.ldreg c) := by intro _; revert c; decide +kernel

end Sys2Proof.Laws.EncodeMatchesRow
end

