-- ==== Sys2Proof/Tests/Slice0.lean ====
section
/-! SUPPORT. Tests on small states: what the operand checks refuse, words of the spec, one step per
command and access with the values of 95_test_vectors.md (its row is named), and a state for the
hypotheses of each statement. -/

open Sys2Proof Sys2Proof.Machine Sys2Proof.Claims

namespace Sys2Proof.Tests

/-! ## Helpers -/

/-- Some next state satisfies p. -/
def nextHas (r : Result) (p : State → Bool) : Bool :=
  match r with
  | .next s => p s
  | .fault _ => false
  | .refused _ => false

/-- The state after one step that serves the word w written to CMD satisfies p. -/
def word (s : State) (w : Nat) (p : State → Bool) : Bool := nextHas (step (s.withFetchWord 32 w)) p

/-- The state after one step that serves the access a satisfies p. -/
def access (s : State) (a : Access) (p : State → Bool) : Bool :=
  nextHas (step { s with pending := [.access a] }) p

/-- REG[c] of a live, unpoisoned context. -/
def regIs (s : State) (c : CtxNum) (r : Word) : Bool :=
  decide (s.ctx c = some { reg := r, poison := false })

/-- STATUS reads as v. -/
def statusIs (s : State) (v : Word) : Bool := statusWord s == v

/-- An engine as SETSPEC leaves it, its table written from rules R100 to R102. -/
def engine (p : Params) (ctrl : BitVec 2) (width : BitVec 6) (poly init xorout : Word) : State :=
  { State.resetFor p with
    ctrl := ctrl, width := width, poly := poly, init := init, xorout := xorout,
    table := some (tableOf (polyx poly width.toNat (ctrl.getLsbD 0)) (ctrl.getLsbD 0)) }

/-- N_CTX = 4, VALIDATE = NONE. -/
def p4 : Params := { lastCtx := 3, validate := .off, window := 0 }
/-- N_CTX = 2, VALIDATE = ACTIVE. -/
def p2a : Params := { lastCtx := 1, validate := .active, window := 0 }
/-- N_CTX = 16, VALIDATE = ACTIVE, a window that does not start at 0. -/
def p16 : Params := { lastCtx := 15, validate := .active, window := 3 }

def crc32 (p : Params) : State := engine p 3 32 0x04C11DB7 0xFFFFFFFF 0xFFFFFFFF
def xmodem : State := engine p4 0 16 0x1021 0 0
def ibm3740 : State := engine p4 0 16 0x1021 0xFFFF 0

/-- Context 0 of the CRC-32 engine after DINIT 0. -/
def live (p : Params) : State := createDigest (crc32 p) 0 0xFFFFFFFF

/-- The same, poisoned (as after CM14). -/
def poisoned : State := (live p2a).setCtx 0 (some { reg := 0x00FFFFFF, poison := true })

theorem engineInv_engine (p : Params) (ctrl : BitVec 2) (width : BitVec 6) (poly init xorout : Word)
    (h : 1 ≤ width.toNat ∧ width.toNat ≤ 32) :
    (engine p ctrl width poly init xorout).EngineInv := by
  intro t ht
  obtain rfl := Option.some.inj ht
  exact ⟨h, fun i => tableOf_entryAt ..⟩

/-! ## What WellFormed and the assembler refuse (R81) -/

theorem test_wf_refuses_counts :
    Instr.wf (.updn 0 0) = false ∧ Instr.wf (.updn 0 5) = false ∧ Instr.wf (.updn 0 1) = true ∧
      Instr.wf (.updn 15 4) = true := by decide

theorem test_assembler_refuses :
    assemble .dinit [16] = none ∧ assemble .upd [16, 0] = none ∧ assemble .upd [0, 256] = none ∧
      assemble .rdtbl [256] = none ∧ assemble .updn [0, 0] = none ∧ assemble .updn [0, 5] = none ∧
      assemble .nop [0] = none := by decide

theorem test_assembler_accepts :
    assemble .upd [15, 255] = some (.upd 15 255) ∧ assemble .updn [15, 4] = some (.updn 15 4) ∧
      assemble .rdtbl [255] = some (.rdtbl 255) ∧ assemble .fin [0] = some (.fin 0) := by decide

/-! ## Decoding: words written out from R71 and R77 (OPC, CTX, RSV, N, IMM8) -/

theorem test_decode_nop : decode 0b0000_0000_00000000000000_00_00000000#32 = .ok .nop := by decide
theorem test_decode_build : decode 0b0001_0000_00000000000000_00_00000000#32 = .ok .build := by
  decide
theorem test_decode_dinit : decode 0b0010_0101_00000000000000_00_00000000#32 = .ok (.dinit 5) := by
  decide
theorem test_decode_dinitc : decode 0b0011_1000_00000000000000_00_00000000#32 = .ok (.dinitc 8) := by
  decide
theorem test_decode_upd : decode 0b0100_0010_00000000000000_00_10000001#32 = .ok (.upd 2 0x81) := by
  decide
theorem test_decode_updn : decode 0b0101_0001_00000000000000_10_00000000#32 = .ok (.updn 1 3) := by
  decide
theorem test_decode_updv : decode 0b0110_1111_00000000000000_00_00000000#32 = .ok (.updv 15) := by
  decide
theorem test_decode_fin : decode 0b0111_0100_00000000000000_00_00000000#32 = .ok (.fin 4) := by
  decide
theorem test_decode_rdtbl : decode 0b1000_0000_00000000000000_00_01000001#32 = .ok (.rdtbl 0x41) := by
  decide
theorem test_decode_rdreg : decode 0b1001_0011_00000000000000_00_00000000#32 = .ok (.rdreg 3) := by
  decide
theorem test_decode_ldreg : decode 0b1010_0001_00000000000000_00_00000000#32 = .ok (.ldreg 1) := by
  decide

/-- Reserved OPC, the highest and lowest RSV bit, and each unused field (ER1 to ER8). -/
theorem test_decode_illegal :
    [0xB0000000, 0xF0000000, 0x00800000, 0x40000400, 0x01000000, 0x00000100, 0x10000001,
      0x20000001, 0x40000100, 0x50000001, 0x80000100, 0x81000000].all
      (fun w => (decodeTableWord 32 w).isNone) = true := by decide

theorem test_table_word : decodeTableWord 32 0x40000031 = some (.upd 0 0x31) := by decide

/-! ## One step per command (95_test_vectors.md sections 4 and 6) -/

/-- CM1. -/
theorem test_nop :
    word State.reset 0x00000000 (fun s => statusIs s 0 && s.err == false && s.pc == 1) = true := by
  decide +kernel

/-- TB20. -/
theorem test_build_badWidth :
    word State.reset 0x10000000 (fun s => statusIs s 0x00000032 && s.table.isNone) = true := by
  decide +kernel

/-- TB23 and TE1: T[1], T[2], T[0x80] and T[0xFF] of CRC-32. -/
theorem test_build :
    word { crc32 p4 with table := none } 0x10000000 (fun s => statusIs s 0x00000001 &&
      (s.table.map fun t => [t.entryAt 0, t.entryAt 1, t.entryAt 2, t.entryAt 0x80, t.entryAt 0xFF])
        == some [0, 0x77073096, 0xEE0E612C, 0xEDB88320, 0x2D02EF8D]) = true := by decide +kernel

/-- TB26. -/
theorem test_rdtbl : word xmodem 0x80000005 (fun s => s.result == 0x50A50000#32) = true := by
  decide +kernel

/-- TB25. -/
theorem test_rdtbl_noEngine :
    word State.reset 0x80000005 (fun s => statusIs s 0x00000022 && s.result == 0#32) = true := by
  decide +kernel

/-- CM2. -/
theorem test_dinit :
    word (crc32 p4) 0x20000000 (fun s => regIs s 0 0xFFFFFFFF && statusIs s 0x00010001) = true := by
  decide +kernel

/-- ER9 (CTX = N_CTX). -/
theorem test_dinit_badCtx :
    word xmodem 0x24000000 (fun s => statusIs s 0x00000043) = true := by decide +kernel

/-- CM4: W = 16, REFIN = 1. -/
theorem test_dinitc_reflected :
    word { engine p4 1 16 0x8005 0 0 with arg := 0x00001234 } 0x31000000
      (fun s => regIs s 1 0x00002C48) = true := by decide +kernel

/-- CM5. -/
theorem test_dinitc :
    word { xmodem with arg := 0x0000FFFF } 0x31000000 (fun s => regIs s 1 0xFFFF0000) = true := by
  decide +kernel

/-- CM6 (its first command): the value is taken as it is. -/
theorem test_ldreg :
    word { crc32 p4 with arg := 0x340BC6D9 } 0xA0000000 (fun s => regIs s 0 0x340BC6D9) = true := by
  decide +kernel

/-- CM7, with REFIN = 1. -/
theorem test_upd : word (live p4) 0x40000031 (fun s => regIs s 0 0x7C231048) = true := by
  decide +kernel

/-- CM22, with REFIN = 0 and a register that is not internalized. -/
theorem test_upd_normal :
    word (createDigest xmodem 2 0x12345678) 0x42000000 (fun s => regIs s 2 0x06257800) = true := by
  decide +kernel

/-- CM8. -/
theorem test_updn_one :
    word { live p4 with arg := 0x34333231 } 0x50000000 (fun s => regIs s 0 0x7C231048) = true := by
  decide +kernel

/-- CM11. -/
theorem test_updn_four :
    word { live p4 with arg := 0x34333231 } 0x50000300 (fun s => regIs s 0 0x641C1F5C) = true := by
  decide +kernel

/-- CM12: VALIDATE = NONE takes the low 8 bits. -/
theorem test_updv_none :
    word { live p4 with arg := 0x000001FF } 0x60000000 (fun s => regIs s 0 0x00FFFFFF) = true := by
  decide +kernel

/-- CM14: VALIDATE = ACTIVE rejects 0x100; no error. -/
theorem test_updv_active :
    word { createDigest (crc32 p2a) 0 0x00FFFFFF with arg := 0x00000100 } 0x60000000 (fun s =>
      s.poison 0 && s.reg 0 == some 0x00FFFFFF#32 && statusIs s 0x00010001) = true := by
  decide +kernel

/-- CM17. -/
theorem test_fin :
    word (createDigest (crc32 p4) 0 0x340BC6D9) 0x70000000
      (fun s => s.result == 0xCBF43926#32 && s.live 0 == false && statusIs s 1) = true := by
  decide +kernel

/-- EF3: REFIN = 1, REFOUT = 0, W = 16. -/
theorem test_fin_mixed :
    word (createDigest (engine p4 1 16 0x1021 0 0) 0 0x00002189) 0x70000000
      (fun s => s.result == 0x00009184#32) = true := by decide +kernel

/-- CM20. -/
theorem test_rdreg :
    word (createDigest ibm3740 0 0xFFFF0000) 0x90000000
      (fun s => s.result == 0xFFFF0000#32 && s.live 0) = true := by decide +kernel

/-- CM14 (its RDREG): the sentinel. -/
theorem test_rdreg_poisoned :
    word { poisoned with result := 7 } 0x90000000 (fun s => s.result == 0#32 && s.poison 0) = true := by
  decide +kernel

/-! ## Errors (95_test_vectors.md section 8) -/

/-- ER12 and ER16: the order of the checks. -/
theorem test_error_order :
    word xmodem 0x70000000 (fun s => statusIs s 0x00000053) = true ∧
      word State.reset 0x79000000 (fun s => statusIs s 0x00000022) = true ∧
      word State.reset 0x79000001 (fun s => statusIs s 0x00000012) = true := by decide +kernel

/-- ER18: the first code stays. -/
theorem test_first_error_stays :
    word { xmodem with err := true, errCode := .illegalCmd } 0x70000000
      (fun s => statusIs s 0x00000013) = true := by decide +kernel

/-! ## Register accesses (95_test_vectors.md section 7) -/

/-- RA3 and RA5. -/
theorem test_param :
    access (State.resetFor p2a) (.read 0x00 32) (fun s => s.trace == [.data 0x00001120]) = true ∧
      access (State.resetFor p16) (.read 0xC0 32) (fun s => s.trace == [.data 0x00001F20]) = true := by
  decide +kernel

/-- RA6 and RA7. -/
theorem test_reserved_bits_dropped :
    access (live p4) (.write 0x04 32 0xFFFFFFFF) (fun s => readReg .ctrl s == some 0x00000003#32 &&
      statusIs s 0) = true ∧
      access (live p4) (.write 0x08 32 0x123) (fun s => readReg .width s == some 0x00000023#32) =
        true := by decide +kernel

/-- RA12, RA13. -/
theorem test_status_write :
    access { crc32 p4 with err := true, errCode := .notLive } (.write 0x24 32 0x2)
      (fun s => statusIs s 0x00000001) = true ∧
      access { crc32 p4 with err := true, errCode := .illegalCmd } (.write 0x24 32 0xFFFFFFFD)
        (fun s => statusIs s 0x00000013) = true := by decide +kernel

/-- RA15. -/
theorem test_status_live :
    access (createDigest (live p4) 2 0) (.read 0x24 32) (fun s => s.trace == [.data 0x00050001]) =
      true := by decide +kernel

/-- R245: a read moves the index on, also when it is a bus error; the reset input does not. -/
theorem test_index_counts_accesses :
    access { live p4 with pc := 7 } (.read 0x20 32) (fun s => s.pc == 8) = true ∧
      access { live p4 with pc := 7 } (.read 0x1C 32) (fun s => s.pc == 8) = true ∧
      nextHas (step { live p4 with pc := 7, pending := [.reset] })
        (fun s => s.pc == 7 && statusIs s 0) = true := by decide +kernel

/-- RA10. -/
theorem test_arg_write :
    access (live p4) (.write 0x18 32 0x34333231)
      (fun s => s.arg == 0x34333231#32 && statusIs s 0x00010001) = true := by decide +kernel

/-- RA17 to RA21. -/
theorem test_bus_errors :
    ([.read 0x1C 32, .write 0x20 32 0, .write 0x00 32 0, .read 0x28 32, .read 0x02 32, .read 0x04 8,
      .write 0x04 64 0, .write 0x3C 32 0] : List Access).all
      (fun a => access (live p4) a fun s => s.trace == [.busError] && statusIs s 0x00010001) = true := by
  decide +kernel

/-! ## States for the hypotheses of the statements

One theorem per statement that has hypotheses, or per group that shares them; the values stand at the
edges of each clause's range. -/

theorem wit_DecodeAfterEncode : Instr.wf (.updn 0 1) = true ∧ Instr.wf (.updn 15 4) = true := by decide

theorem wit_LegalWordsAreEncodings : decode 0x51000300 = .ok (.updn 1 4) := by decide

theorem wit_DecodeFollowsTheOpcodeMap :
    decode 0x4F0000FF = .ok (.upd 15 255) ∧
      ⟨.upd, 0x40000000, 0xF0FFFF00⟩ ∈ opcodeRows ∧
      (0x4F0000FF#32 &&& 0xF0FFFF00#32 = 0x40000000#32) := by decide

/-- Each of the three grounds for ILLEGAL, at its edge. -/
theorem wit_IllegalWordsOnlyRecordTheError :
    0xB = ((0xB0000000#32).extractLsb' 28 4).toNat ∧
      (0x40000400#32).extractLsb' 10 14 ≠ 0#14 ∧ (0x40800000#32).extractLsb' 10 14 ≠ 0#14 ∧
      ∀ r ∈ opcodeRows, 0x00000100#32 &&& r.mask ≠ r.pattern := by decide

/-- A legal and an illegal word as the next access. -/
theorem wit_StepRunsTheDecodedCommand :
    { State.resetFor p16 with pending := [.access (.write 0xDC 32 0x51000300), .reset] }.pending =
        .access (.write (p16.base + 0x1C) 32 0x51000300) :: [.reset] ∧
      decode 0x51000300 = .ok (.updn 1 4) ∧ decode 0xB0000000 = .error .reservedOpcode := by decide

/-- A word of every OPC for wordRuns, with its unused fields 0 and one of them not 0. -/
theorem wit_wordRuns :
    (List.range 11).all (fun k =>
      (BitVec.ofNat 32 (k * 2 ^ 28)).extractLsb' 28 4 == BitVec.ofNat 4 k &&
      (BitVec.ofNat 32 (k * 2 ^ 28 + 0x400)).extractLsb' 28 4 == BitVec.ofNat 4 k &&
      (decodeTableWord 32 (k * 2 ^ 28)).isSome && (decodeTableWord 32 (k * 2 ^ 28 + 0x400)).isNone) =
      true := by decide +kernel

/-- W at 1, 32, 0 and 33, and an engine of the invariant. -/
theorem wit_BuildFillsTheTable :
    ({ State.reset with width := 1 } : State).W = 1 ∧ (crc32 p4).W = 32 ∧ State.reset.W = 0 ∧
      ({ State.reset with width := 33 } : State).W = 33 ∧
      (crc32 p4).EngineInv ∧ (crc32 p4).tableValid = true :=
  ⟨by decide, by decide, by decide, by decide, engineInv_engine _ _ _ _ _ _ (by decide), rfl⟩

theorem wit_RdtblReadsOneEntry :
    (∃ t, (crc32 p4).table = some t) ∧ (crc32 p4).EngineInv ∧ State.reset.table = none :=
  ⟨⟨_, rfl⟩, engineInv_engine _ _ _ _ _ _ (by decide), rfl⟩

/-- An engine with the highest context number of the instance, with N_CTX = 4 and 16, the lowest number
that is too high, and ARG = INIT (the creating commands DINIT, DINITC, LDREG). -/
theorem wit_creating_commands :
    (∃ t, (crc32 p4).table = some t) ∧ (3 : CtxNum).toNat < (crc32 p4).params.nCtx ∧
      (∃ t, (crc32 p16).table = some t) ∧ (15 : CtxNum).toNat < (crc32 p16).params.nCtx ∧
      (crc32 p4).params.nCtx ≤ (4 : CtxNum).toNat ∧
      ({ crc32 p4 with arg := 0xFFFFFFFF } : State).arg = (crc32 p4).init ∧
      State.reset.table = none :=
  ⟨⟨_, rfl⟩, by decide, ⟨_, rfl⟩, by decide, by decide, rfl, rfl⟩

/-- A live context, poisoned and not, and one that is not live (UPD, UPDN, FIN, RDREG, with the byte
counts 1 and 4). -/
theorem wit_digest_commands :
    (∃ t, (live p4).table = some t) ∧ (0 : CtxNum).toNat < (live p4).params.nCtx ∧
      (live p4).ctx 0 = some { reg := 0xFFFFFFFF, poison := false } ∧
      (∃ t, poisoned.table = some t) ∧ (0 : CtxNum).toNat < poisoned.params.nCtx ∧
      poisoned.ctx 0 = some { reg := 0x00FFFFFF, poison := true } ∧
      (3 : CtxNum).toNat < (live p4).params.nCtx ∧ (live p4).ctx 3 = none ∧
      (live p4).params.nCtx ≤ (4 : CtxNum).toNat ∧ 1 ≤ 1 ∧ 4 ≤ 4 :=
  ⟨⟨_, rfl⟩, by decide, rfl, ⟨_, rfl⟩, by decide, rfl, by decide, rfl, by decide, by decide, by decide⟩

/-- Beside a live and a poisoned context: VALIDATE = NONE, and ARG at 255 and 256 under ACTIVE. -/
theorem wit_UpdvValidatesArg :
    (live p4).params.validate = .off ∧ (live p2a).params.validate = .active ∧
      (live p2a).ctx 0 = some { reg := 0xFFFFFFFF, poison := false } ∧
      ({ live p2a with arg := 0x000000FF } : State).arg.toNat ≤ 255 ∧
      255 < ({ live p2a with arg := 0x00000100 } : State).arg.toNat :=
  ⟨rfl, rfl, rfl, by decide, by decide⟩

/-- Every code of R200, and none. -/
theorem wit_FirstFailingCheckIsRecorded :
    wordError 0xB0000000 State.reset = some .illegalCmd ∧
      wordError 0x79000000 State.reset = some .noEngine ∧
      wordError 0x10000000 State.reset = some .badWidth ∧
      wordError 0x24000000 (live p4) = some .badCtx ∧
      wordError 0x73000000 (live p4) = some .notLive ∧
      wordError 0x70000000 (live p4) = none := by decide +kernel

theorem wit_ErrorsDoNotStopTheBlock :
    ({ live p4 with err := true, errCode := .badWidth } : State).err = true := rfl

theorem wit_PoisonedContextReturnsTheSentinel :
    (∃ t, poisoned.table = some t) ∧ (0 : CtxNum).toNat < poisoned.params.nCtx ∧
      poisoned.ctx 0 = some { reg := 0x00FFFFFF, poison := true } ∧
      (live p2a).ctx 0 = some { reg := 0xFFFFFFFF, poison := false } ∧
      (live p2a).params.validate = .active ∧
      255 < ({ live p2a with arg := 0x00000100 } : State).arg.toNat ∧
      isUpdate (.updv 0) 0 :=
  ⟨⟨_, rfl⟩, by decide, rfl, rfl, rfl, by decide, .inr (.inr rfl)⟩

/-- A command that executes, and a context it does not name. -/
theorem wit_commands_frame :
    exec (.fin 0) (live p4) = .next (({ live p4 with result := 0x00000000 } : State).setCtx 0 none) ∧
      usesCtx (.fin 0) ≠ some 1 ∧ Instr.fin 0 ≠ .build :=
  ⟨by rfl, by decide, by decide⟩

theorem wit_UpdatesOfTwoContextsCommute :
    let s := createDigest (live p4) 3 0x12345678
    (∃ t, s.table = some t) ∧ (0 : CtxNum).toNat < s.params.nCtx ∧ (3 : CtxNum).toNat < s.params.nCtx ∧
      s.live 0 = true ∧ s.live 3 = true ∧ (0 : CtxNum) ≠ 3 ∧ isUpdate (.upd 0 0x31) 0 ∧
      isUpdate (.updn 3 4) 3 :=
  ⟨⟨_, rfl⟩, by decide, by decide, rfl, rfl, by decide, .inl ⟨_, rfl⟩, .inr (.inl ⟨_, rfl⟩)⟩

/-- The premise of serves, for any state and access. -/
theorem wit_serves (s : State) (a : Access) :
    ({ s with pending := [.access a] } : State).pending = .access a :: [] := rfl

/-- The edges of the window's illegal accesses. -/
theorem wit_IllegalAccessesAreBusErrors :
    (0x3C < 0x40 ∧ 0x28 ≤ 0x3C) ∧ (0x28 < 0x40 ∧ 0x28 ≤ 0x28) ∧ (0x3F < 0x40 ∧ 0x3F % 4 ≠ 0) ∧
      (0x01 < 0x40 ∧ 0x01 % 4 ≠ 0) ∧ (0x00 < 0x40 ∧ 16 ≠ 32) := by decide

theorem wit_BusErrorChangesNothing :
    let s : State := { State.reset with pending := [.access (.read 0x1C 32)] }
    step s = .next { s with pending := [], pc := 1, trace := [.busError] } ∧
      ({ s with pending := [], pc := 1, trace := [.busError] } : State).trace =
        s.trace ++ [.busError] := ⟨by rfl, rfl⟩

/-- The addresses just below and just above the window 0xC0 to 0xFF. -/
theorem wit_AccessOutsideTheWindowFaults :
    0xBF < p16.base ∧ p16.base + 0x3F < 0x100 ∧
      ({ State.resetFor p16 with pending := [.access (.read 0x100 32)] } : State).pending =
        .access (.read 0x100 32) :: [] := ⟨by decide, by decide, rfl⟩

theorem wit_ReadsHaveNoSideEffects :
    let s : State := { State.reset with pending := [.access (.read 0x20 32)] }
    step s = .next { s with pending := [], pc := 1, trace := [.data 0] } := by rfl

theorem wit_PoisonIsHidden : (live p2a).ctx 0 = some { reg := 0xFFFFFFFF, poison := false } := rfl

/-- A step that changes RESULT. -/
theorem wit_ResultChangesOnlyBySuccess :
    ∃ s', step (xmodem.withFetchWord 32 0x80000005) = .next s' ∧ s'.result ≠ xmodem.result :=
  ⟨_, rfl, by decide +kernel⟩

/-- A step that writes the table. -/
theorem wit_OnlyBuildWritesTheTable :
    ∃ s' t, step (({ xmodem with table := none } : State).withFetchWord 32 0x10000000) = .next s' ∧
      s'.table = some t := ⟨_, _, rfl, rfl⟩

/-- An access and the reset input as the next input, at an index that is not 0. -/
theorem wit_EachAccessAdvancesTheIndex :
    (∃ s', step { live p4 with pc := 7, pending := [.access (.read 0x20 32)] } = .next s') ∧
      ∃ s', step { live p4 with pc := 7, pending := [.reset, .access (.read 0x20 32)] } = .next s' :=
  ⟨⟨_, rfl⟩, _, rfl⟩

/-- A live digest under the invariants, and a step from it. -/
theorem wit_StepKeepsTheInvariants :
    (live p2a).Inv ∧ ∃ s', step ((live p2a).withFetchWord 32 0x70000000) = .next s' := by
  refine ⟨⟨?_, ?_, fun _ => rfl, fun _ => rfl⟩, _, rfl⟩
  · exact engineInv_engine p2a 3 32 0x04C11DB7 0xFFFFFFFF 0xFFFFFFFF (by decide)
  · intro c d h
    rw [live, createDigest, ctx_setCtx] at h
    split at h
    · subst c
      cases h
      exact ⟨rfl, by decide, by simp⟩
    · simp [crc32, engine, State.ctx, State.resetFor] at h

theorem wit_ResetInputGivesTheResetState :
    ({ live p4 with pending := [.reset] } : State).pending = .reset :: [] := rfl

theorem wit_AfterResetCommandsNeedABuild : Instr.upd 0 0 ≠ .nop ∧ Instr.upd 0 0 ≠ .build := by decide

/-- The widths 1 and 32 and the bit numbers 0 and 31 (the arithmetic statements). -/
theorem wit_widths : (1 ≤ 1 ∧ 1 ≤ 32) ∧ (1 ≤ 32 ∧ 32 ≤ 32) ∧ 0 < 32 ∧ 31 < 32 := by decide

/-- Two states with one specification for the table and different INIT. -/
theorem wit_TableDependsOnlyOnItsSpecification :
    xmodem.width = ibm3740.width ∧ xmodem.poly = ibm3740.poly ∧ xmodem.refin = ibm3740.refin ∧
      1 ≤ xmodem.W ∧ xmodem.W ≤ 32 ∧ xmodem.init ≠ ibm3740.init := by decide

/-- Aligned registers of W = 16, and an XOROUT below 2^16. -/
theorem wit_AlignedRegistersGiveMaskedResults :
    aligned 16 false 0x31C30000 ∧ aligned 16 true 0x0000BB3D ∧ (0x0000FFFF#32).toNat < 2 ^ 16 := by
  refine ⟨?_, ?_, by decide⟩
  · intro k hk
    have hk : k < 16 := by simpa using hk
    interval_cases k <;> decide
  · intro k hk
    have hk : 16 ≤ k := by simpa using hk
    rcases Nat.lt_or_ge k 32 with h | h
    · interval_cases k <;> decide
    · exact BitVec.getLsbD_of_ge _ _ h

theorem wit_EmptyInputChecksum :
    (∃ t, ibm3740.table = some t) ∧ (3 : CtxNum).toNat < ibm3740.params.nCtx ∧ 1 ≤ ibm3740.W ∧
      ibm3740.W ≤ 32 := ⟨⟨_, rfl⟩, by decide, by decide, by decide⟩

/-- CHECKSUM 3 of "12" and of no byte as the pending accesses. -/
theorem wit_ChecksumIsFinalizeUpdateInit :
    (∃ t, (crc32 p4).table = some t) ∧ (3 : CtxNum).toNat < (crc32 p4).params.nCtx ∧
      ((crc32 p4).submit (checksum p4 3 [0x31, 0x32])).pending =
        (checksum (crc32 p4).params 3 [0x31, 0x32]).map Input.access ++ [] ∧
      ((crc32 p4).submit (checksum p4 3 [])).pending =
        (checksum (crc32 p4).params 3 []).map Input.access ++ [] :=
  ⟨⟨_, rfl⟩, by decide, by simp [State.submit]; rfl, by simp [State.submit]; rfl⟩

/-- A byte and words of one and of four bytes. -/
theorem wit_ChunkingDoesNotMatter :
    let chunks : List Chunk := [.one 0x31, .packed 0x35343332 4, .packed 0x36 1]
    (∃ t, (crc32 p4).table = some t) ∧ (0 : CtxNum).toNat < (crc32 p4).params.nCtx ∧
      (∀ x ∈ chunks, x.ok) ∧
      ((crc32 p4).submit (command p4 (.dinit 0) :: chunks.flatMap (Chunk.accesses p4 0))).pending =
        (command p4 (.dinit 0) :: chunks.flatMap (Chunk.accesses p4 0)).map Input.access ++ [] :=
  ⟨⟨_, rfl⟩, by decide, by simp [Chunk.ok], by simp [State.submit]; rfl⟩

end Sys2Proof.Tests
end

/-! # Proofs of the statements about the state (10_state.md)

First what serving an input and executing a command can do, then what the invariants need, then the
statements. -/

namespace Sys2Proof.Machine

open Sys2Proof.Claims

/-! ## What a command and an input leave unchanged -/

/-- Everything an answered command can be: an error recorded, or its effect. -/
theorem exec_next {i : Instr} {s u : State} (h : exec i s = .next u) :
    (∃ code, code ≠ .none ∧ u = raiseCmdError code s) ∨ Effect i s u := by
  obtain ⟨w, hw, hcases⟩ := exec_cases i s
  obtain rfl : w = u := Host.Outcome.next.inj (hw.symm.trans h)
  exact hcases

/-- A command changes at most RESULT, the error record, the table and the contexts (R27, R188). -/
theorem exec_frame {i : Instr} {s u : State} (h : exec i s = .next u) :
    u = { s with
      result := u.result, err := u.err, errCode := u.errCode,
      table := u.table, ctxs := u.ctxs } := by
  rcases exec_next h with ⟨code, -, rfl⟩ | h
  · rfl
  · cases h <;> rfl

/-- Only BUILD writes the table (R32). -/
theorem exec_table {i : Instr} {s u : State} (h : exec i s = .next u) (hi : i ≠ .build) :
    u.table = s.table := by
  rcases exec_next h with ⟨code, -, rfl⟩ | h
  · rfl
  · cases h with
    | build hb => exact absurd hb hi
    | _ => rfl

/-- The store of a specification register writes that register only. -/
theorem SpecStore.frame {v : Word} {s x : State} {r : Reg} (h : SpecStore v s r x) :
    x = { s with
      ctrl := x.ctrl, width := x.width, poly := x.poly, init := x.init, xorout := x.xorout } := by
  cases h <;> rfl

/-- What the block does with the input e it has received in state s. -/
inductive Served (s : State) : Input → State → Prop where
  | reset : Served s .reset (assertReset s)
  /-- a read, a bus error, or a write of STATUS with bit 1 clear: a response and nothing else -/
  | observe (a : Access) (r : Response) : Served s (.access a) (s.respond r)
  | spec (r : Reg) (v : Word) (x : State) (hx : SpecStore v (s.respond .ack) r x) :
      Served s (.access (.write (s.params.base + r.offset) 32 v)) (destroyEngine x)
  | arg (v : Word) :
      Served s (.access (.write (s.params.base + 0x18) 32 v)) (writeArg v (s.respond .ack))
  | clear (v : Word) :
      Served s (.access (.write (s.params.base + 0x24) 32 v)) (clearError (s.respond .ack))
  | illegal (v : Word) (hd : ∃ e, decode v = .error e) :
      Served s (.access (.write (s.params.base + 0x1C) 32 v))
        (raiseCmdError .illegalCmd (s.respond .ack))
  | command (v : Word) (i : Instr) (u : State) (hd : decode v = .ok i)
      (hx : exec i (s.respond .ack) = .next u) :
      Served s (.access (.write (s.params.base + 0x1C) 32 v)) u

/-- Everything a write that reaches a register can do, as an input. -/
theorem served_of_writeReg {r : Reg} {v : Word} {s u : State} (h : writeReg r v s = .next u) :
    Served s (.access (.write (s.params.base + r.offset) 32 v)) u := by
  rcases writeReg_cases h with ⟨-, rfl⟩ | ⟨x, hx, rfl⟩ | ⟨rfl, rfl⟩ | ⟨rfl, rfl⟩ | ⟨rfl, h⟩
  · exact .observe _ _
  · exact .spec r v x hx
  · exact .arg v
  · rcases writeStatus_cases v (s.respond .ack) with h | h <;> rw [h]
    · exact .observe _ _
    · exact .clear v
  · rcases writeCmd_cases h with ⟨rfl, hd⟩ | ⟨i, hd, hx⟩
    · exact .illegal v hd
    · exact .command v i u hd hx

/-- Everything an input can do. -/
theorem served_of_serve {e : Input} {s u : State} (h : serve e s = .next u) : Served s e u := by
  match e with
  | .reset =>
    obtain rfl := Host.Outcome.next.inj h
    exact .reset
  | .access (.read addr bits) =>
    rcases busRead_cases addr bits s with hr | ⟨r, hr⟩ <;> cases hr.symm.trans h
    exact .observe _ r
  | .access (.write addr bits v) =>
    rcases busWrite_cases addr bits v s with hw | hw | ⟨r, rfl, rfl, hw⟩
    · cases hw.symm.trans h
    · cases hw.symm.trans h
      exact .observe _ _
    · exact served_of_writeReg (hw.symm.trans h)

/-- Everything a step can do. -/
theorem step_served {s s' : State} (h : step s = .next s') :
    ∃ e rest, s.pending = e :: rest ∧ Served (s.received e rest) e s' := by
  obtain ⟨e, rest, hp, hs⟩ := step_next h
  exact ⟨e, rest, hp, served_of_serve hs⟩

/-- A step that takes the input e serves it. -/
theorem step_served_cons {s s' : State} {e : Input} {rest : List Input} (hp : s.pending = e :: rest)
    (h : step s = .next s') : Served (s.received e rest) e s' :=
  served_of_serve ((step_cons hp).symm.trans h)

/-! ## The invariants -/

/-- Without an engine and a live context only the error record is left to check. -/
theorem inv_of_no_engine {s : State} (ht : s.table = none) (hc : ∀ c, s.ctx c = none)
    (he : s.ErrorInv) : s.Inv where
  engine t h := by rw [ht] at h; cases h
  contexts c d h := by rw [hc c] at h; cases h
  error := he

theorem inv_resetFor (p : Params) : (State.resetFor p).Inv :=
  inv_of_no_engine rfl (ctx_resetFor p) ⟨fun _ => rfl, fun _ => rfl⟩

theorem inv_assertReset (s : State) : (assertReset s).Inv :=
  inv_of_no_engine rfl (ctx_assertReset s) ⟨fun _ => rfl, fun _ => rfl⟩

section
variable {s : State} (hs : s.Inv)
include hs

theorem inv_received (e : Input) (rest : List Input) : (s.received e rest).Inv :=
  ⟨hs.engine, hs.contexts, hs.error⟩

theorem inv_respond (r : Response) : (s.respond r).Inv :=
  ⟨hs.engine, hs.contexts, hs.error⟩

theorem inv_writeArg (v : Word) : (writeArg v s).Inv :=
  ⟨hs.engine, hs.contexts, hs.error⟩

theorem inv_setResult (v : Word) : ({ s with result := v } : State).Inv :=
  ⟨hs.engine, hs.contexts, hs.error⟩

theorem inv_clearError : (clearError s).Inv :=
  ⟨hs.engine, hs.contexts, fun _ => rfl, fun _ => rfl⟩

/-- A recorded error has a code: the new one, or under ERR = 1 the one that stands. -/
theorem inv_raiseCmdError {code : ErrCode} (hcode : code ≠ .none) :
    (raiseCmdError code s).Inv := by
  refine ⟨hs.engine, hs.contexts, nofun, fun h => ?_⟩
  rw [raiseCmdError_errCode] at h
  split at h
  next herr => exact absurd ((hs.error.mpr h).symm.trans herr) nofun
  next => exact absurd h hcode

/-- BUILD fills in the entries of the current configuration (R102). -/
theorem inv_build (hW : 1 ≤ s.W ∧ s.W ≤ 32) :
    ({ s with table := some (tableOf (polyx s.poly s.W s.refin) s.refin) } : State).Inv where
  engine t ht := by
    obtain rfl := Option.some.inj ht
    exact ⟨hW, tableOf_entryAt _ _⟩
  contexts c d h := ⟨rfl, (hs.contexts c d h).2⟩
  error := hs.error

/-- A context may take a digest that meets R38, or be left without one. -/
theorem inv_setCtx (c : CtxNum) (d : Option Digest)
    (hd : ∀ x, d = some x → s.tableValid = true ∧ c.toNat < s.params.nCtx ∧
      (x.poison = true → s.params.validate = .active)) : (s.setCtx c d).Inv := by
  refine ⟨hs.engine, fun k x h => ?_, hs.error⟩
  rw [ctx_setCtx] at h
  split at h
  · subst k
    exact hd x h
  · exact hs.contexts k x h

/-- A live context may take another digest that is poisoned under ACTIVE only. -/
theorem inv_setCtx_live {c : CtxNum} {d x : Digest} (hd : s.ctx c = some d)
    (hx : x.poison = true → s.params.validate = .active) : (s.setCtx c (some x)).Inv := by
  obtain ⟨hv, hc, -⟩ := hs.contexts c d hd
  refine inv_setCtx hs c (some x) fun y hy => ?_
  obtain rfl := Option.some.inj hy
  exact ⟨hv, hc, hx⟩

theorem inv_effect {i : Instr} {u : State} (h : Effect i s u) : u.Inv := by
  cases h with
  | nop => exact hs
  | skip => exact hs
  | build _ hW => exact inv_build hs hW
  | rdtbl => exact inv_setResult hs _
  | rdreg => exact inv_setResult hs _
  | create c r hv hc =>
    refine inv_setCtx hs c _ fun x hx => ?_
    obtain rfl := Option.some.inj hx
    exact ⟨hv, hc, nofun⟩
  | feed c d r hd =>
    obtain ⟨-, -, hp⟩ := hs.contexts c d hd
    exact inv_setCtx_live hs hd hp
  | reject c d hd hv => exact inv_setCtx_live hs hd fun _ => hv
  | fin c => exact inv_setCtx (inv_setResult hs _) c none nofun

theorem inv_exec {i : Instr} {u : State} (h : exec i s = .next u) : u.Inv := by
  rcases exec_next h with ⟨code, hcode, rfl⟩ | h
  · exact inv_raiseCmdError hs hcode
  · exact inv_effect hs h

/-- A write of a specification register destroys the engine and keeps the error record (R171). -/
theorem inv_destroyEngine_of_specStore {v : Word} {r : Reg} {x : State}
    (h : SpecStore v s r x) : (destroyEngine x).Inv := by
  refine inv_of_no_engine rfl (ctx_destroyEngine x) ?_
  rw [h.frame]
  exact hs.error

theorem inv_served {e : Input} {u : State} (h : Served s e u) : u.Inv := by
  have hack := inv_respond hs .ack
  cases h with
  | reset => exact inv_assertReset s
  | observe a r => exact inv_respond hs r
  | spec r v x hx => exact inv_destroyEngine_of_specStore hack hx
  | arg v => exact inv_writeArg hack v
  | clear v => exact inv_clearError hack
  | illegal => exact inv_raiseCmdError hack nofun
  | command v i u hd hx => exact inv_exec hack hx

end

/-- Settles O38: a step receives an input, which changes nothing of the block, and serves it; each
way to serve one keeps the three invariants. -/
theorem stepKeepsTheInvariants : Obligations.StepKeepsTheInvariants := by
  intro s s' hs h
  obtain ⟨e, rest, -, hserved⟩ := step_served h
  exact inv_served (inv_received hs e rest) hserved

/-- Settles O39: the reset state is without an engine, a digest and an error. -/
theorem resetHasTheInvariants : Obligations.ResetHasTheInvariants :=
  ⟨inv_resetFor, inv_resetFor Config.params⟩

/-! ## What steps leave alone -/

/-- Settles O22, from the frame of exec. -/
theorem commandsLeaveConfigurationAlone : Obligations.CommandsLeaveConfigurationAlone := by
  intro i s s' h
  have htable := exec_table h
  rw [exec_frame h]
  exact ⟨rfl, rfl, rfl, rfl, rfl, rfl, rfl, rfl, rfl, rfl, htable⟩

/-- No input moves the rest of the host's sequence, the index or the parameters (R39, R40). -/
theorem Served.host {s u : State} {e : Input} (h : Served s e u) :
    u.params = s.params ∧ u.pending = s.pending ∧ u.pc = s.pc := by
  cases h with
  | spec r v x hx =>
    rw [hx.frame]
    exact ⟨rfl, rfl, rfl⟩
  | command v i _ hd hx =>
    rw [exec_frame hx]
    exact ⟨rfl, rfl, rfl⟩
  | _ => exact ⟨rfl, rfl, rfl⟩

/-- Each access gets one response (R170, R245). -/
theorem Served.trace {s u : State} {a : Access} (h : Served s (.access a) u) :
    ∃ r, u.trace = s.trace ++ [r] := by
  cases h with
  | observe a r => exact ⟨r, rfl⟩
  | spec r v x hx => exact ⟨.ack, by rw [hx.frame]; rfl⟩
  | command v i _ hd hx => exact ⟨.ack, by rw [exec_frame hx]; rfl⟩
  | _ => exact ⟨.ack, rfl⟩

/-- Settles O37: receiving the input moves the index, serving it adds the response. -/
theorem eachAccessAdvancesTheIndex : Obligations.EachAccessAdvancesTheIndex := by
  intro s s' h
  obtain ⟨e, rest, hp, hserved⟩ := step_served h
  obtain ⟨hparams, hpending, hpc⟩ := hserved.host
  have hrest : s'.pending = rest := hpending
  refine ⟨hparams, ?_⟩
  rw [hrest]
  cases e with
  | access a =>
    obtain ⟨r, hr⟩ := hserved.trace
    exact .inl ⟨a, r, hp, hpc, hr⟩
  | reset =>
    cases hserved
    exact .inr ⟨hp, rfl, rfl⟩

/-! ## The table -/

/-- BUILD is opcode 1 of R77. -/
theorem opc_of_commandOf_build {opc n : Nat} {c : CtxNum} {imm : Byte}
    (h : commandOf opc c n imm = some .build) : opc = 1 := by
  unfold commandOf at h
  split at h <;> cases h
  rfl

/-- BUILD has one encoding (R76, R81). -/
theorem word_of_decode_build {w : Word} (h : decode w = .ok .build) : w = 0x10000000#32 := by
  obtain ⟨⟨hrsv, hctx, hn, himm⟩, hcmd⟩ := (decode_eq_ok_iff w .build).mp h
  have hopc := opc_of_commandOf_build hcmd
  have hopc' : opcField w = 1#4 := BitVec.eq_of_toNat_eq hopc
  have hctx' : ctxField w = 0 := by simpa [hopc, uses] using hctx
  have hn' : nField w = 0 := by simpa [hopc, uses] using hn
  have himm' : imm8Field w = 0 := by simpa [hopc, uses] using himm
  rw [word_of_fields w, hopc', hrsv, hctx', hn', himm']
  rfl

/-- Of the inputs only a command can leave a table that was not there, and of the commands only
BUILD. -/
theorem Served.table {s u : State} {e : Input} {t : Table} (h : Served s e u)
    (ht : u.table = some t) :
    s.table = some t ∨ e = .access (.write (s.params.base + 0x1C) 32 0x10000000#32) := by
  cases h with
  | reset => cases ht
  | spec r v x hx => cases ht
  | command v i _ hd hx =>
    by_cases hi : i = .build
    · subst i
      rw [word_of_decode_build hd]
      exact .inr rfl
    · exact .inl ((exec_table hx hi).symm.trans ht)
  | _ => exact .inl ht

/-- Settles O36: receiving the input leaves the table alone, serving it writes it by BUILD only. -/
theorem onlyBuildWritesTheTable : Obligations.OnlyBuildWritesTheTable := by
  intro s s' e rest t hp h ht
  exact (step_served_cons hp h).table ht

/-! ## RESULT -/

/-- Steps 4 to 6 of R201 for a command that names a context. -/
theorem commandError_of_usesCtx {i : Instr} {c : CtxNum} (hc : usesCtx i = some c) (s : State) :
    commandError i s =
      if s.tableValid = false then some .noEngine
      else if s.params.nCtx ≤ c.toNat then some .badCtx
      else if needsLive i && !s.live c then some .notLive
      else none := by
  have hnop : i ≠ .nop := by rintro rfl; cases hc
  have hbuild : i ≠ .build := by rintro rfl; cases hc
  simp only [commandError, hnop, hbuild, if_false, hc]

/-- A command that creates a digest records the error commandError names. -/
theorem withCtx_of_commandError {i : Instr} {c : CtxNum} {s : State} {code : ErrCode}
    (hc : usesCtx i = some c) (hl : needsLive i = false) (h : commandError i s = some code)
    (k : Table → Result) : withCtx s c k = .next (raiseCmdError code s) := by
  rw [commandError_of_usesCtx hc] at h
  cases ht : s.table with
  | none =>
    obtain rfl : .noEngine = code := by simpa [State.tableValid, ht] using h
    exact withCtx_none ht k
  | some t =>
    obtain ⟨hle, rfl⟩ : s.params.nCtx ≤ c.toNat ∧ .badCtx = code := by
      simpa [State.tableValid, ht, hl] using h
    exact withCtx_badCtx ht hle k

/-- A command that needs a digest does too. -/
theorem withDigest_of_commandError {i : Instr} {c : CtxNum} {s : State} {code : ErrCode}
    (hc : usesCtx i = some c) (hl : needsLive i = true) (h : commandError i s = some code)
    (k : Table → Digest → Result) : withDigest s c k = .next (raiseCmdError code s) := by
  rw [commandError_of_usesCtx hc] at h
  cases ht : s.table with
  | none =>
    obtain rfl : .noEngine = code := by simpa [State.tableValid, ht] using h
    exact withDigest_none ht k
  | some t =>
    rcases Nat.lt_or_ge c.toNat s.params.nCtx with hlt | hle
    · obtain ⟨hnone, rfl⟩ : s.ctx c = none ∧ .notLive = code := by
        simpa [State.tableValid, ht, hl, Nat.not_le.mpr hlt, State.live] using h
      exact withDigest_notLive ht hlt hnone k
    · obtain rfl : .badCtx = code := by simpa [State.tableValid, ht, hle] using h
      exact withDigest_badCtx ht hle k

/-- A command that fails a check of R201 records that error and does nothing else (R202, R203). -/
theorem exec_of_commandError {i : Instr} {s : State} {code : ErrCode}
    (h : commandError i s = some code) : exec i s = .next (raiseCmdError code s) := by
  cases i with
  | nop => cases h
  | build =>
    obtain ⟨hW, rfl⟩ : ¬ (1 ≤ s.W ∧ s.W ≤ 32) ∧ .badWidth = code := by
      simpa [commandError] using h
    exact if_neg hW
  | rdtbl k =>
    obtain ⟨ht, rfl⟩ : s.table = none ∧ .noEngine = code := by
      simpa [commandError, usesCtx, State.tableValid] using h
    exact withEngine_none ht _
  | dinit c => exact withCtx_of_commandError rfl rfl h _
  | dinitc c => exact withCtx_of_commandError rfl rfl h _
  | ldreg c => exact withCtx_of_commandError rfl rfl h _
  | upd c b => exact withDigest_of_commandError rfl rfl h _
  | updn c n => exact withDigest_of_commandError rfl rfl h _
  | updv c => exact withDigest_of_commandError rfl rfl h _
  | fin c => exact withDigest_of_commandError rfl rfl h _
  | rdreg c => exact withDigest_of_commandError rfl rfl h _

/-- The commands that deliver a value in RESULT (R29). -/
def deliversResult (i : Instr) : Prop :=
  (∃ c, i = .fin c) ∨ (∃ k, i = .rdtbl k) ∨ (∃ c, i = .rdreg c)

theorem Effect.delivers {i : Instr} {s u : State} (h : Effect i s u)
    (hne : u.result ≠ s.result) : deliversResult i := by
  cases h with
  | fin c d v hd hi => exact .inl ⟨c, hi⟩
  | rdtbl t k ht hi => exact .inr (.inl ⟨k, hi⟩)
  | rdreg c d v hd hi => exact .inr (.inr ⟨c, hi⟩)
  | _ => exact absurd rfl hne

/-- A recorded error keeps RESULT, so a command that changes it failed no check. -/
theorem exec_result {i : Instr} {s u : State} (h : exec i s = .next u)
    (hne : u.result ≠ s.result) : commandError i s = none ∧ deliversResult i := by
  constructor
  · cases hc : commandError i s with
    | none => rfl
    | some code =>
      obtain rfl := Host.Outcome.next.inj ((exec_of_commandError hc).symm.trans h)
      exact absurd rfl hne
  · rcases exec_next h with ⟨code, -, rfl⟩ | h
    · exact absurd rfl hne
    · exact h.delivers hne

/-- The checks of R201 do not look at the host's side of the run. -/
theorem wordError_respond (v : Word) (s : State) (r : Response) :
    wordError v (s.respond r) = wordError v s := rfl

/-- RESULT changes at reset or by a command that fails no check and delivers a value. -/
theorem Served.result {s u : State} {e : Input} (h : Served s e u) (hne : u.result ≠ s.result) :
    e = .reset ∨ ∃ v i, e = .access (.write (s.params.base + 0x1C) 32 v) ∧ decode v = .ok i ∧
      wordError v s = none ∧ deliversResult i := by
  cases h with
  | reset => exact .inl rfl
  | spec r v x hx =>
    rw [hx.frame] at hne
    exact absurd rfl hne
  | command v i _ hd hx =>
    obtain ⟨hc, hi⟩ := exec_result hx hne
    refine .inr ⟨v, i, rfl, hd, ?_, hi⟩
    rw [← wordError_respond v s .ack]
    simpa [wordError, hd] using hc
  | _ => exact absurd rfl hne

/-- Settles O35: of the inputs other than reset only a command changes RESULT, and one that records
an error keeps it. -/
theorem resultChangesOnlyBySuccess : Obligations.ResultChangesOnlyBySuccess := by
  intro s s' e rest hp h hne
  exact (step_served_cons hp h).result hne

/-! ## What registers show -/

/-- The fields of PARAM (R20). -/
theorem paramWord_fields (p : Params) :
    (paramWord p).extractLsb' 0 8 = 0x20#8 ∧
    ((paramWord p).extractLsb' 8 4).toNat + 1 = p.nCtx ∧
    (paramWord p).getLsbD 12 = decide (p.validate = .active) ∧
    (paramWord p).extractLsb' 13 19 = 0#19 := by
  unfold paramWord Params.nCtx
  generalize p.lastCtx = n, p.validate = v
  cases v <;> revert n <;> decide

/-- Settles O28: PARAM shows the parameters alone, which reset keeps. -/
theorem paramReportsTheInstance : Obligations.ParamReportsTheInstance := by
  have hread : ∀ s : State, serves s (.read s.params.base 32) (.data (paramWord s.params)) s :=
    fun s rest hp => (step_cons hp).trans (busRead_reg (r := .param) rfl)
  intro s
  refine ⟨paramWord s.params, hread s, hread (assertReset s), fun x rest hp => ?_,
    paramWord_fields s.params⟩
  exact (step_cons hp).trans (busWrite_reg _ .param x)

/-- Another digest in a live context leaves every LIVE bit as it was. -/
theorem live_setCtx_of_ctx {s : State} {c : CtxNum} {d : Digest} (hd : s.ctx c = some d)
    (x : Digest) (k : CtxNum) : (s.setCtx c (some x)).live k = s.live k := by
  rw [State.live, State.live, ctx_setCtx]
  split
  · subst k
    rw [hd]
    rfl
  · rfl

/-- Settles O34: of the contexts STATUS shows LIVE alone, and no other register shows them. -/
theorem poisonIsHidden : Obligations.PoisonIsHidden := by
  intro s c d p r hd
  have hbits := liveBits_congr (live_setCtx_of_ctx hd { d with poison := p }) s.params.nCtx
  change readReg r (s.setCtx c (some { d with poison := p })) = readReg r s
  cases r with
  | status => simp [readReg, statusWord, hbits]
  | _ => rfl

/-! ## The alignment of table entries -/

theorem aligned_false_iff (W : Nat) (r : Word) :
    aligned W false r ↔ ∀ k, k < 32 - W → r.getLsbD k = false := by
  simp [aligned]

theorem aligned_true_iff (W : Nat) (r : Word) :
    aligned W true r ↔ ∀ k, W ≤ k → r.getLsbD k = false := by
  simp [aligned]

theorem aligned_polyx (p : Word) {W : Nat} (refin : Bool) (hW : W ≤ 32) :
    aligned W refin (polyx p W refin) := by
  cases refin with
  | false =>
    refine (aligned_false_iff _ _).mpr fun k hk => ?_
    simp [polyx, alignShift, hk]
  | true =>
    refine (aligned_true_iff _ _).mpr fun k hk => ?_
    simp [polyx, alignShift, show ¬ 32 - W + k < 32 by omega]

/-- The bits that are 0 after n of the eight steps of R101: those of the alignment (R33), as far as
the byte the steps began with has moved out of them. -/
def clearAfter (W n : Nat) (refin : Bool) (v : Word) : Prop :=
  ∀ k, (if refin then W ≤ k ∧ 8 ≤ k + n else k < 32 - W ∧ k < 24 + n) → v.getLsbD k = false

theorem clearAfter_false_iff (W n : Nat) (v : Word) :
    clearAfter W n false v ↔ ∀ k, k < 32 - W → k < 24 + n → v.getLsbD k = false := by
  simp [clearAfter]

theorem clearAfter_true_iff (W n : Nat) (v : Word) :
    clearAfter W n true v ↔ ∀ k, W ≤ k → 8 ≤ k + n → v.getLsbD k = false := by
  simp [clearAfter]

theorem clearAfter_entrySeed (W : Nat) (refin : Bool) (i : Byte) :
    clearAfter W 0 refin (entrySeed refin i) := by
  cases refin with
  | false =>
    refine (clearAfter_false_iff _ _ _).mpr fun k _ hk => ?_
    simp [entrySeed, show k < 24 from hk]
  | true =>
    refine (clearAfter_true_iff _ _ _).mpr fun k _ hk => ?_
    simp [entrySeed, BitVec.getLsbD_of_ge i k hk]

/-- After eight steps the byte has left the word's unused end. -/
theorem aligned_of_clearAfter {W : Nat} {refin : Bool} {v : Word} (h : clearAfter W 8 refin v) :
    aligned W refin v := by
  cases refin with
  | false =>
    exact (aligned_false_iff _ _).mpr fun k hk => (clearAfter_false_iff _ _ _).mp h k hk (by omega)
  | true =>
    exact (aligned_true_iff _ _).mpr fun k hk => (clearAfter_true_iff _ _ _).mp h k hk (by omega)

theorem getLsbD_ite_of_false {P : Word} {k : Nat} (h : P.getLsbD k = false) (p : Prop)
    [Decidable p] : (if p then P else 0#32).getLsbD k = false := by
  split <;> simp [h]

/-- A step moves the byte on by one bit, and XORs in nothing but the aligned polynomial. -/
theorem clearAfter_entryStep {W n : Nat} {refin : Bool} {P v : Word} (hP : aligned W refin P)
    (hv : clearAfter W n refin v) : clearAfter W (n + 1) refin (entryStep P refin v) := by
  cases refin with
  | false =>
    rw [aligned_false_iff] at hP
    rw [clearAfter_false_iff] at hv ⊢
    intro k hk hkn
    have hshift : (v <<< 1).getLsbD k = false := by
      rcases Nat.eq_zero_or_pos k with rfl | hpos
      · simp
      · simp [hv (k - 1) (by omega) (by omega)]
    simp [entryStep, hshift, getLsbD_ite_of_false (hP k hk)]
  | true =>
    rw [aligned_true_iff] at hP
    rw [clearAfter_true_iff] at hv ⊢
    intro k hk hkn
    have hshift : (v >>> 1).getLsbD k = false := by
      simp [hv (1 + k) (by omega) (by omega)]
    simp [entryStep, hshift, getLsbD_ite_of_false (hP k hk)]

theorem clearAfter_entrySteps {W n m : Nat} {refin : Bool} {P v : Word} (hP : aligned W refin P)
    (hv : clearAfter W n refin v) : clearAfter W (n + m) refin (entrySteps P refin m v) := by
  induction m generalizing n v with
  | zero => exact hv
  | succ m ih =>
    rw [entrySteps_succ, Nat.add_succ, ← Nat.succ_add]
    exact ih (clearAfter_entryStep hP hv)

theorem aligned_entry {W : Nat} {refin : Bool} {P : Word} (hP : aligned W refin P) (i : Byte) :
    aligned W refin (entry P refin i) :=
  aligned_of_clearAfter (clearAfter_entrySteps (m := 8) hP (clearAfter_entrySeed W refin i))

/-- Settles O47: the polynomial is aligned, and the eight steps keep its alignment. -/
theorem tableEntriesAreAligned : Obligations.TableEntriesAreAligned := by
  intro p W refin i _ hW
  exact aligned_entry (aligned_polyx p refin hW) i

end Sys2Proof.Machine

/-! # Proofs of the statements about the register window and byte order (20_memory.md)

First the byte order of command words and packed bytes, then which accesses the window answers and
how, then the bit order of the byte step. -/

namespace Sys2Proof

/-! ## Byte order -/

theorem lane_getLsbD (w : Word) (n : Nat) {k : Nat} (hk : k < 8) :
    (lane w n).getLsbD k = w.getLsbD (8 * n + k) := by
  simp [lane, hk]

theorem lane_or (v w : Word) (n : Nat) : lane (v ||| w) n = lane v n ||| lane w n := by
  refine BitVec.eq_of_getLsbD_eq fun k hk => ?_
  simp only [lane_getLsbD _ _ hk, BitVec.getLsbD_or]

/-- A byte shifted into a lane fills that lane and leaves the others 0 (R54). -/
theorem lane_shiftLeft (b : Byte) {m : Nat} (hm : m < 4) (n : Nat) :
    lane (b.setWidth 32 <<< (8 * m)) n = if n = m then b else 0 := by
  refine BitVec.eq_of_getLsbD_eq fun k hk => ?_
  rw [lane_getLsbD _ _ hk, BitVec.getLsbD_shiftLeft, BitVec.getLsbD_setWidth]
  rcases Nat.lt_trichotomy n m with h | rfl | h
  · simp [show 8 * n + k < 8 * m by omega, h.ne]
  · simp [show 8 * n + k < 32 by omega, show k < 32 by omega]
  · simp [BitVec.getLsbD_of_ge b (8 * n + k - 8 * m) (by omega), h.ne']

/-- The lanes of packed bytes are the bytes, lane 0 the one at the lowest address (R54, R56). -/
theorem lane_wordOfBytes (b0 b1 b2 b3 : Byte) :
    lane (wordOfBytes b0 b1 b2 b3) 0 = b0 ∧ lane (wordOfBytes b0 b1 b2 b3) 1 = b1 ∧
    lane (wordOfBytes b0 b1 b2 b3) 2 = b2 ∧ lane (wordOfBytes b0 b1 b2 b3) 3 = b3 := by
  have hw : wordOfBytes b0 b1 b2 b3 = b0.setWidth 32 <<< (8 * 0) ||| b1.setWidth 32 <<< (8 * 1) |||
      b2.setWidth 32 <<< (8 * 2) ||| b3.setWidth 32 <<< (8 * 3) := by simp [wordOfBytes]
  simp only [hw, lane_or, lane_shiftLeft _ (show 0 < 4 by decide),
    lane_shiftLeft _ (show 1 < 4 by decide), lane_shiftLeft _ (show 2 < 4 by decide),
    lane_shiftLeft _ (show 3 < 4 by decide)]
  simp

/-- A word is determined by its four bytes. -/
theorem eq_of_lane_eq {v w : Word} (h : ∀ n < 4, lane v n = lane w n) : v = w := by
  refine BitVec.eq_of_getLsbD_eq fun k hk => ?_
  have hbit := congrArg (fun b => b.getLsbD (k % 8)) (h (k / 8) (by omega))
  have hmod : k % 8 < 8 := Nat.mod_lt k (by decide)
  simpa only [lane_getLsbD _ _ hmod, Nat.div_add_mod] using hbit

/-- A word's lanes, packed, are the word. -/
theorem wordOfBytes_lanes (w : Word) :
    wordOfBytes (lane w 0) (lane w 1) (lane w 2) (lane w 3) = w := by
  obtain ⟨h0, h1, h2, h3⟩ := lane_wordOfBytes (lane w 0) (lane w 1) (lane w 2) (lane w 3)
  refine eq_of_lane_eq fun n hn => ?_
  match n with
  | 0 => exact h0
  | 1 => exact h1
  | 2 => exact h2
  | 3 => exact h3

end Sys2Proof

namespace Sys2Proof.Machine

open Sys2Proof.Claims

/-- Settles O6: packing and unpacking the bytes of a word are inverse to each other. -/
theorem bytesAreLittleEndian : Obligations.BytesAreLittleEndian := by
  refine ⟨fun w => congrArg decode (wordOfBytes_lanes w), fun b0 b1 b2 b3 => ?_⟩
  obtain ⟨h0, h1, h2, h3⟩ := lane_wordOfBytes b0 b1 b2 b3
  simp [argBytes, h0, h1, h2, h3]

/-! ## The window -/

theorem offset_aligned (r : Reg) : r.offset % 4 = 0 := by cases r <;> decide

theorem offset_lt_reserved (r : Reg) : r.offset < 0x28 := by cases r <;> decide

/-- No register is reached by another size (R52), off a multiple of 4 (R53), or at the reserved
offsets (R51). -/
theorem selectReg_eq_none {off bits : Nat} (h : bits ≠ 32 ∨ off % 4 ≠ 0 ∨ 0x28 ≤ off) :
    selectReg off bits = none := by
  refine Option.eq_none_iff_forall_ne_some.mpr fun r hr => ?_
  obtain ⟨hbits, hoff⟩ := selectReg_eq_some hr
  have := offset_aligned r
  have := offset_lt_reserved r
  omega

theorem busRead_of_selectReg_none {s : State} {off bits : Nat} (hoff : off < 0x40)
    (h : selectReg off bits = none) : busRead (s.params.base + off) bits s = busError s := by
  simp [busRead, windowOffset_add _ hoff, h]

theorem busWrite_of_selectReg_none {s : State} {off bits : Nat} (hoff : off < 0x40)
    (h : selectReg off bits = none) (v : Word) :
    busWrite (s.params.base + off) bits v s = busError s := by
  simp [busWrite, windowOffset_add _ hoff, h]

/-- A read of CMD is a bus error (R28, R189). -/
theorem busRead_cmd (s : State) :
    busRead (s.params.base + Reg.cmd.offset) 32 s = busError s := by
  simp [busRead, windowOffset_add _ (offset_lt .cmd), readReg]

/-- An input served with a bus error gets the error response and changes nothing (R206). -/
theorem serves_busError {s : State} {a : Access}
    (h : ∀ u : State, u.params = s.params → serve (.access a) u = busError u) :
    serves s a .busError s :=
  fun rest hp => (step_cons hp).trans (h (s.received (.access a) rest) rfl)

/-- Settles O30: no register stands at such an offset or answers such a size, CMD has no read, and
PARAM and RESULT have no write. -/
theorem illegalAccessesAreBusErrors : Obligations.IllegalAccessesAreBusErrors := by
  intro s off bits v hoff
  refine ⟨fun h => ⟨?_, ?_⟩, ?_, ?_, ?_⟩ <;> refine serves_busError fun u hu => ?_ <;> rw [← hu]
  · exact busRead_of_selectReg_none hoff (selectReg_eq_none h)
  · exact busWrite_of_selectReg_none hoff (selectReg_eq_none h) v
  · exact busRead_cmd u
  · exact busWrite_reg u .param v
  · exact busWrite_reg u .result v

/-- Settles O32: such an address has no offset in the window. -/
theorem accessOutsideTheWindowFaults : Obligations.AccessOutsideTheWindowFaults := by
  intro s addr bits v rest haddr
  have hw : windowOffset s.params addr = none :=
    (windowOffset_eq_none_iff _ _).mpr haddr
  refine ⟨fun hp => ?_, fun hp => ?_⟩ <;> rw [step_cons hp]
  · simp [serve, busRead, hw]
  · simp [serve, busWrite, hw]

/-- Settles O33: of all a served input can do, a read is answered only. -/
theorem readsHaveNoSideEffects : Obligations.ReadsHaveNoSideEffects := by
  intro s s' addr bits rest hp h
  cases step_served_cons hp h with
  | observe a r => exact ⟨r, rfl⟩

/-! ## Bit order -/

/-- The word after n shifts in REFIN's direction. -/
def shiftOut (refin : Bool) (n : Nat) (w : Word) : Word := if refin then w >>> n else w <<< n

/-- The bit that the shift after k others drops. -/
def outBit (refin : Bool) (w : Word) (k : Nat) : Bool := if refin then w.getLsbD k else w.getMsbD k

theorem shiftOut_xor (refin : Bool) (n : Nat) (v w : Word) :
    shiftOut refin n (v ^^^ w) = shiftOut refin n v ^^^ shiftOut refin n w := by
  cases refin
  · exact BitVec.shiftLeft_xor_distrib v w n
  · exact BitVec.ushiftRight_xor_distrib v w n

theorem shiftOut_succ (refin : Bool) (n : Nat) (w : Word) :
    shiftOut refin (n + 1) w = shiftOut refin n (shiftOut refin 1 w) := by
  cases refin
  · simp [shiftOut, ← BitVec.shiftLeft_add, Nat.add_comm]
  · simp [shiftOut, ← BitVec.shiftRight_add, Nat.add_comm]

theorem outBit_succ (refin : Bool) (w : Word) (k : Nat) :
    outBit refin w (k + 1) = outBit refin (shiftOut refin 1 w) k := by
  cases refin
  · simp [outBit, shiftOut, BitVec.getMsbD_shiftLeft]
  · simp [outBit, shiftOut, Nat.add_comm]

/-- A step of R101 on r ^^^ w takes the bit of w it drops into r and shifts the rest of w. -/
theorem entryStep_xor_eq_bitStep (P : Word) (refin : Bool) (r w : Word) :
    entryStep P refin (r ^^^ w) =
      bitStep P refin r (outBit refin w 0) ^^^ shiftOut refin 1 w := by
  cases refin
  · have hout : outBit false w 0 = w.getLsbD 31 := by simp [outBit, BitVec.getMsbD]
    simp only [entryStep, bitStep, hout, shiftOut, Bool.false_eq_true, if_false,
      BitVec.getLsbD_xor, BitVec.shiftLeft_xor_distrib, Bool.bne_eq_xor]
    ac_rfl
  · simp only [entryStep, bitStep, outBit, shiftOut, if_true, BitVec.getLsbD_xor,
      BitVec.ushiftRight_xor_distrib, Bool.bne_eq_xor]
    ac_rfl

/-- n steps of R101 on r ^^^ w take the first n bits w drops into r, one after the other. -/
theorem entrySteps_xor_eq_foldl (P : Word) (refin : Bool) (n : Nat) (r w : Word) :
    entrySteps P refin n (r ^^^ w) =
      ((List.range n).map (outBit refin w)).foldl (bitStep P refin) r ^^^ shiftOut refin n w := by
  induction n generalizing r w with
  | zero => cases refin <;> simp [shiftOut]
  | succ n ih =>
    have htail : outBit refin w ∘ Nat.succ = outBit refin (shiftOut refin 1 w) :=
      funext (outBit_succ refin w)
    rw [entrySteps_succ, entryStep_xor_eq_bitStep, ih, List.range_succ_eq_map, List.map_cons,
      List.map_map, htail, List.foldl_cons, ← shiftOut_succ]

/-- The eight steps of R101 drop the whole of the byte they begin with. -/
theorem shiftOut_entrySeed (refin : Bool) (b : Byte) :
    shiftOut refin 8 (entrySeed refin b) = 0 := by
  refine BitVec.eq_of_getLsbD_eq fun k hk => ?_
  cases refin <;> simp [shiftOut, entrySeed]

/-- The eight steps of R101 drop the bits of the byte they begin with in processing order (R55). -/
theorem map_outBit_entrySeed (refin : Bool) (b : Byte) :
    (List.range 8).map (outBit refin (entrySeed refin b)) =
      (processingOrder refin).map b.getLsbD := by
  cases refin
  · simp [List.range_succ, outBit, entrySeed, processingOrder, BitVec.getMsbD]
  · simp [List.range_succ, outBit, entrySeed, processingOrder]

/-- The bit-serial update is the eight steps of R101 on the register with the byte XORed in. -/
theorem bitSerial_eq_entrySteps (P : Word) (refin : Bool) (r : Word) (b : Byte) :
    bitSerial P refin r b = entrySteps P refin 8 (r ^^^ entrySeed refin b) := by
  rw [entrySteps_xor_eq_foldl, map_outBit_entrySeed, shiftOut_entrySeed, bitSerial,
    List.foldl_map]
  simp

/-- The table index of R121. -/
def tableIndex (refin : Bool) (r : Word) (b : Byte) : Byte :=
  if refin then lowByte (r ^^^ b.setWidth 32) else lowByte ((r >>> 24) ^^^ b.setWidth 32)

theorem crcStep_eq (t : Table) (refin : Bool) (r : Word) (b : Byte) :
    crcStep t refin r b = t.entryAt (tableIndex refin r b) ^^^ shiftOut refin 8 r := by
  cases refin <;> rfl

/-- The dropped bits of the register with the byte XORed in are the index's, in processing order. -/
theorem outBit_xor_entrySeed (refin : Bool) (r : Word) (b : Byte) {k : Nat} (hk : k < 8) :
    outBit refin (r ^^^ entrySeed refin b) k =
      outBit refin (entrySeed refin (tableIndex refin r b)) k := by
  cases refin
  · interval_cases k <;> simp [outBit, entrySeed, tableIndex, lowByte, BitVec.getMsbD]
  · interval_cases k <;> simp [outBit, entrySeed, tableIndex, lowByte]

/-- Eight steps of R101 XOR in what the eight bits they drop call for, and shift the rest. -/
theorem entrySteps_eq_entry_xor {refin : Bool} {v : Word} {i : Byte}
    (h : ∀ k < 8, outBit refin v k = outBit refin (entrySeed refin i) k) (P : Word) :
    entrySteps P refin 8 v = entry P refin i ^^^ shiftOut refin 8 v := by
  have hbits : (List.range 8).map (outBit refin v) =
      (List.range 8).map (outBit refin (entrySeed refin i)) :=
    List.map_congr_left fun k hk => h k (List.mem_range.mp hk)
  have hv := entrySteps_xor_eq_foldl P refin 8 0 v
  have hi := entrySteps_xor_eq_foldl P refin 8 0 (entrySeed refin i)
  rw [shiftOut_entrySeed] at hi
  simp only [BitVec.ofNat_eq_ofNat, BitVec.zero_xor, BitVec.xor_zero] at hv hi
  rw [hv, hbits, ← hi, entry]

/-- Settles O52: both sides are the eight steps of R101 on the register with the byte XORed in. -/
theorem tableStepIsBitSerial : Obligations.TableStepIsBitSerial := by
  intro P refin r b
  calc crcStep (tableOf P refin) refin r b
      = entry P refin (tableIndex refin r b) ^^^ shiftOut refin 8 r := by
        rw [crcStep_eq, tableOf_entryAt]
    _ = entry P refin (tableIndex refin r b) ^^^ shiftOut refin 8 (r ^^^ entrySeed refin b) := by
        rw [shiftOut_xor, shiftOut_entrySeed, BitVec.ofNat_eq_ofNat, BitVec.xor_zero]
    _ = entrySteps P refin 8 (r ^^^ entrySeed refin b) :=
        (entrySteps_eq_entry_xor (fun _ hk => outBit_xor_entrySeed refin r b hk) P).symm
    _ = bitSerial P refin r b := (bitSerial_eq_entrySteps P refin r b).symm

end Sys2Proof.Machine

/-! # Proofs of the statements about command words (30_encoding.md)

A command and a word are compared through the fields of R71: `decode` succeeds exactly when RSV is 0
and the word's fields are the command's, and `encode` packs the command's fields. -/

namespace Sys2Proof

/-! ## The fields of a word and of a command -/

/-- The fields of CMD32 but RSV, which is 0 in every legal word (R71, R75). -/
structure CmdFields where
  opc : BitVec 4
  ctx : CtxNum
  n : BitVec 2
  imm8 : Byte

/-- The word with these fields and RSV = 0 (R71). -/
def CmdFields.word (f : CmdFields) : Word :=
  f.opc.setWidth 32 <<< 28 ||| ctxBits f.ctx ||| f.n.setWidth 32 <<< 8 ||| f.imm8.setWidth 32

/-- The fields a word holds. -/
def fieldsOf (w : Word) : CmdFields := ⟨opcField w, ctxField w, nField w, imm8Field w⟩

/-- The fields that stand for a command: its OPC and operands, an unused field 0 (R76, R77), and
N = n - 1 (R73). -/
def Instr.fields : Instr → CmdFields
  | .nop => ⟨0x0, 0, 0, 0⟩
  | .build => ⟨0x1, 0, 0, 0⟩
  | .dinit c => ⟨0x2, c, 0, 0⟩
  | .dinitc c => ⟨0x3, c, 0, 0⟩
  | .upd c b => ⟨0x4, c, 0, b⟩
  | .updn c n => ⟨0x5, c, BitVec.ofNat 2 (n - 1), 0⟩
  | .updv c => ⟨0x6, c, 0, 0⟩
  | .fin c => ⟨0x7, c, 0, 0⟩
  | .rdtbl i => ⟨0x8, 0, 0, i⟩
  | .rdreg c => ⟨0x9, c, 0, 0⟩
  | .ldreg c => ⟨0xA, c, 0, 0⟩

theorem rsvField_word (f : CmdFields) : rsvField f.word = 0 := by
  refine BitVec.eq_of_getLsbD_eq fun k hk => ?_
  interval_cases k <;> simp [rsvField, CmdFields.word, ctxBits]

theorem fieldsOf_word (f : CmdFields) : fieldsOf f.word = f := by
  have hopc : opcField f.word = f.opc := BitVec.eq_of_getLsbD_eq fun k hk => by
    interval_cases k <;> simp [opcField, CmdFields.word, ctxBits]
  have hctx : ctxField f.word = f.ctx := BitVec.eq_of_getLsbD_eq fun k hk => by
    interval_cases k <;> simp [ctxField, CmdFields.word, ctxBits]
  have hn : nField f.word = f.n := BitVec.eq_of_getLsbD_eq fun k hk => by
    interval_cases k <;> simp [nField, CmdFields.word, ctxBits]
  have himm : imm8Field f.word = f.imm8 := BitVec.eq_of_getLsbD_eq fun k hk => by
    interval_cases k <;> simp [imm8Field, CmdFields.word, ctxBits]
  rw [fieldsOf, hopc, hctx, hn, himm]

/-- A word with RSV = 0 is its other fields packed. -/
theorem word_fieldsOf {w : Word} (h : rsvField w = 0) : (fieldsOf w).word = w := by
  conv_rhs => rw [word_of_fields w, h]
  simp [CmdFields.word, fieldsOf, ctxBits]

/-- N = n - 1 loses nothing of the counts 1 to 4 (R73). -/
theorem toNat_countField {n : Nat} (h1 : 1 ≤ n) (h4 : n ≤ 4) :
    (BitVec.ofNat 2 (n - 1)).toNat = n - 1 := by
  rw [BitVec.toNat_ofNat]
  omega

/-- The encoder packs the command's fields (R81). -/
theorem encode_eq_word {i : Instr} (h : i.wf = true) : encode i = i.fields.word := by
  cases i with
  | updn c n =>
    obtain ⟨h1, h4⟩ : 1 ≤ n ∧ n ≤ 4 := by simpa [Instr.wf] using h
    have hn : (BitVec.ofNat 2 (n - 1)).setWidth 32 = BitVec.ofNat 32 (n - 1) := by
      rw [← BitVec.ofNat_toNat, toNat_countField h1 h4]
    simp [encode, Instr.fields, CmdFields.word, hn]
  | _ => simp [encode, Instr.fields, CmdFields.word, ctxBits]

/-! ## The decoder on the fields -/

/-- The command named by an opcode whose unused fields are 0 is well formed and has these fields. -/
theorem fields_of_commandOf {opc : BitVec 4} {c : CtxNum} {n : BitVec 2} {imm : Byte} {i : Instr}
    (h : commandOf opc.toNat c (n.toNat + 1) imm = some i)
    (hc : (uses opc.toNat).ctx = true ∨ c = 0) (hn : (uses opc.toNat).n = true ∨ n = 0)
    (himm : (uses opc.toNat).imm8 = true ∨ imm = 0) :
    i.wf = true ∧ i.fields = ⟨opc, c, n, imm⟩ := by
  have hopc : BitVec.ofNat 4 opc.toNat = opc := BitVec.ofNat_toNat _ _
  have hcount : n.toNat + 1 ≤ 4 := n.isLt
  unfold commandOf at h
  split at h <;> cases h
  all_goals simp_all [uses, Instr.wf, Instr.fields]

/-- A command's fields leave every field its opcode does not use 0, and name the command. -/
theorem commandOf_fields {i : Instr} (h : i.wf = true) :
    ((uses i.fields.opc.toNat).ctx = true ∨ i.fields.ctx = 0) ∧
      ((uses i.fields.opc.toNat).n = true ∨ i.fields.n = 0) ∧
      ((uses i.fields.opc.toNat).imm8 = true ∨ i.fields.imm8 = 0) ∧
      commandOf i.fields.opc.toNat i.fields.ctx (i.fields.n.toNat + 1) i.fields.imm8 = some i := by
  cases i with
  | updn c n =>
    obtain ⟨h1, h4⟩ : 1 ≤ n ∧ n ≤ 4 := by simpa [Instr.wf] using h
    have hn : (BitVec.ofNat 2 (n - 1)).toNat + 1 = n := by
      rw [toNat_countField h1 h4, Nat.sub_add_cancel h1]
    exact ⟨.inl rfl, .inl rfl, .inr rfl, congrArg (fun m => some (Instr.updn c m)) hn⟩
  | _ => simp [Instr.fields, uses, commandOf]

/-- A word decodes to a command exactly when its RSV is 0 and its fields are the command's (R80). -/
theorem decode_eq_ok_iff_fields (w : Word) (i : Instr) :
    decode w = .ok i ↔ rsvField w = 0 ∧ i.wf = true ∧ i.fields = fieldsOf w := by
  rw [decode_eq_ok_iff]
  constructor
  · rintro ⟨⟨hrsv, hctx, hn, himm⟩, hcmd⟩
    exact ⟨hrsv, fields_of_commandOf hcmd hctx hn himm⟩
  · rintro ⟨hrsv, hwf, hf⟩
    obtain ⟨hctx, hn, himm, hcmd⟩ := commandOf_fields hwf
    rw [hf] at hctx hn himm hcmd
    exact ⟨⟨hrsv, hctx, hn, himm⟩, hcmd⟩

/-- Settles O2: the word packs the command's fields, which the decoder reads back. -/
theorem decodeAfterEncode : Obligations.DecodeAfterEncode := by
  intro i hwf
  rw [encode_eq_word hwf, decode_eq_ok_iff_fields]
  exact ⟨rsvField_word _, hwf, (fieldsOf_word _).symm⟩

/-- Settles O3: the command has the word's fields, and its word packs them. -/
theorem legalWordsAreEncodings : Obligations.LegalWordsAreEncodings := by
  intro w i h
  obtain ⟨hrsv, hwf, hf⟩ := (decode_eq_ok_iff_fields w i).mp h
  exact ⟨hwf, by rw [encode_eq_word hwf, hf, word_fieldsOf hrsv]⟩

/-! ## The rows of the opcode map -/

/-- A well-formed command's word is of its mnemonic's row (R77). -/
theorem exists_row_of_wf {i : Instr} (h : i.wf = true) :
    ∃ r ∈ opcodeRows, r.mnemonic = i.mnemonic ∧ encode i &&& r.mask = r.pattern := by
  have hrow : Laws.EncodeMatchesRow.Statement i := by
    cases i with
    | nop => exact Laws.EncodeMatchesRow.nop
    | build => exact Laws.EncodeMatchesRow.build
    | dinit c => exact Laws.EncodeMatchesRow.dinit c
    | dinitc c => exact Laws.EncodeMatchesRow.dinitc c
    | upd c b => exact Laws.EncodeMatchesRow.upd c b
    | updn c n => exact Laws.EncodeMatchesRow.updn c n
    | updv c => exact Laws.EncodeMatchesRow.updv c
    | fin c => exact Laws.EncodeMatchesRow.fin c
    | rdtbl k => exact Laws.EncodeMatchesRow.rdtbl k
    | rdreg c => exact Laws.EncodeMatchesRow.rdreg c
    | ldreg c => exact Laws.EncodeMatchesRow.ldreg c
  simpa [Row.matches] using hrow h

/-- A mask of ones on some bits fixes those bits of a matching word. -/
theorem extractLsb'_eq_of_masked {w mask pattern : Word} {start len : Nat}
    (h : w &&& mask = pattern) (hmask : mask.extractLsb' start len = BitVec.allOnes len) :
    w.extractLsb' start len = pattern.extractLsb' start len := by
  rw [← h, BitVec.extractLsb'_and, hmask, BitVec.and_allOnes]

/-- The bits a row fixes are OPC, RSV and the fields its opcode does not use, all but OPC at 0
(R77). -/
theorem row_fixes : ∀ r ∈ opcodeRows,
    opcField r.mask = BitVec.allOnes 4 ∧
      (rsvField r.mask = BitVec.allOnes 14 ∧ rsvField r.pattern = 0) ∧
      ((uses (opcField r.pattern).toNat).ctx = true ∨
        ctxField r.mask = BitVec.allOnes 4 ∧ ctxField r.pattern = 0) ∧
      ((uses (opcField r.pattern).toNat).n = true ∨
        nField r.mask = BitVec.allOnes 2 ∧ nField r.pattern = 0) ∧
      ((uses (opcField r.pattern).toNat).imm8 = true ∨
        imm8Field r.mask = BitVec.allOnes 8 ∧ imm8Field r.pattern = 0) := by
  decide

/-- The opcode of a row names a command of the row's mnemonic. -/
theorem commandOf_row {r : Row} (hr : r ∈ opcodeRows) (c : CtxNum) (n : Nat) (imm : Byte) :
    ∃ i, commandOf (opcField r.pattern).toNat c n imm = some i ∧ i.mnemonic = r.mnemonic := by
  simp only [opcodeRows, List.mem_cons, List.not_mem_nil, or_false] at hr
  obtain rfl | rfl | rfl | rfl | rfl | rfl | rfl | rfl | rfl | rfl | rfl := hr <;>
    exact ⟨_, rfl, rfl⟩

/-- A word of a row has the row's opcode, and RSV and the unused fields 0. -/
theorem fieldsOk_of_row {r : Row} (hr : r ∈ opcodeRows) {w : Word} (h : w &&& r.mask = r.pattern) :
    opcField w = opcField r.pattern ∧ fieldsOk w := by
  obtain ⟨hopc, ⟨hrsv, hrsv0⟩, hctx, hn, himm⟩ := row_fixes r hr
  have hw : opcField w = opcField r.pattern := extractLsb'_eq_of_masked h hopc
  rw [← hw] at hctx hn himm
  exact ⟨hw, (extractLsb'_eq_of_masked h hrsv).trans hrsv0,
    hctx.imp_right fun ⟨hm, h0⟩ => (extractLsb'_eq_of_masked h hm).trans h0,
    hn.imp_right fun ⟨hm, h0⟩ => (extractLsb'_eq_of_masked h hm).trans h0,
    himm.imp_right fun ⟨hm, h0⟩ => (extractLsb'_eq_of_masked h hm).trans h0⟩

/-- A word that decodes is of its command's row, being the command's word (O3). -/
theorem exists_row_of_decode {w : Word} {i : Instr} (h : decode w = .ok i) :
    ∃ r ∈ opcodeRows, r.mnemonic = i.mnemonic ∧ w &&& r.mask = r.pattern := by
  obtain ⟨hwf, hw⟩ := legalWordsAreEncodings w i h
  exact hw ▸ exists_row_of_wf hwf

/-- Settles O4: a legal word is its command's, so of its row; a row fixes what the decoder checks. -/
theorem decodeFollowsTheOpcodeMap : Obligations.DecodeFollowsTheOpcodeMap := by
  refine ⟨fun w i h => exists_row_of_decode h, fun w r hr h => ?_⟩
  obtain ⟨hopc, hok⟩ := fieldsOk_of_row hr h
  obtain ⟨i, hi, hm⟩ := commandOf_row hr (ctxField w) ((nField w).toNat + 1) (imm8Field w)
  exact ⟨i, (decode_eq_ok_iff w i).mpr ⟨hok, hopc ▸ hi⟩, hm⟩

/-! ## ILLEGAL words -/

/-- A reserved opcode, a set RSV bit or no row makes a word ILLEGAL (R75, R78, R80). -/
theorem decode_error_of_illegal {w : Word}
    (h : 0xB ≤ (opcField w).toNat ∨ rsvField w ≠ 0 ∨
      ∀ r ∈ opcodeRows, w &&& r.mask ≠ r.pattern) : ∃ e, decode w = .error e := by
  rcases h with hopc | hrsv | hrow
  · exact decode_error_of_not w fun ⟨hlt, _⟩ => absurd hlt (Nat.not_lt.mpr hopc)
  · exact decode_error_of_not w fun ⟨_, h0, _⟩ => hrsv h0
  · cases hd : decode w with
    | error e => exact ⟨e, rfl⟩
    | ok i =>
      obtain ⟨r, hr, -, hw⟩ := exists_row_of_decode hd
      exact absurd hw (hrow r hr)

/-- Settles O5: such a word is ILLEGAL, and a write of it only records the error. -/
theorem illegalWordsOnlyRecordTheError : Obligations.IllegalWordsOnlyRecordTheError := by
  intro s w h
  obtain ⟨e, he⟩ := decode_error_of_illegal h
  exact Machine.writeCmd_error he s

/-- Settles O1: the words are literals, so the decoder is evaluated on each. -/
theorem wordsOfTheSpecDecode : Obligations.WordsOfTheSpecDecode := by
  unfold Obligations.WordsOfTheSpecDecode
  decide

end Sys2Proof

/-! # Proofs of the statements about the table builder (40_table_builder.md)

First the polynomial and the steps of R101 under reversal and XOR, then tables and the two commands,
then the words that run a command. -/

namespace Sys2Proof.Machine

open Sys2Proof.Claims

/-! ## The expansion of the polynomial -/

/-- The reflected expansion is the reversal of the normal one (R100). -/
theorem polyx_true_eq_rev32 (p : Word) (W : Nat) :
    polyx p W true = rev32 (polyx p W false) :=
  (rev32_shiftLeft p (alignShift W)).symm

/-- The mask of R100 keeps the bits below W. -/
theorem getLsbD_lowMask (W k : Nat) :
    (BitVec.ofNat 32 (2 ^ W - 1)).getLsbD k = (decide (k < 32) && decide (k < W)) := by
  rw [BitVec.getLsbD_ofNat, Nat.testBit_two_pow_sub_one]

/-- The alignment shift moves the bits at and above W out of the word. -/
theorem and_lowMask_shiftLeft (p : Word) {W : Nat} (hW : W ≤ 32) :
    (p &&& BitVec.ofNat 32 (2 ^ W - 1)) <<< (32 - W) = p <<< (32 - W) := by
  refine BitVec.eq_of_getLsbD_eq fun k hk => ?_
  have hkept : k - (32 - W) < 32 := by omega
  rw [BitVec.getLsbD_shiftLeft, BitVec.getLsbD_shiftLeft, BitVec.getLsbD_and, getLsbD_lowMask]
  by_cases hlow : k < 32 - W
  · simp [hlow]
  · simp [hkept, show k - (32 - W) < W by omega]

/-- The expansion does not depend on the bits of POLY at and above W (R100). -/
theorem polyx_and_lowMask (p : Word) {W : Nat} (refin : Bool) (hW : W ≤ 32) :
    polyx (p &&& BitVec.ofNat 32 (2 ^ W - 1)) W refin = polyx p W refin := by
  have hnormal : polyx (p &&& BitVec.ofNat 32 (2 ^ W - 1)) W false = polyx p W false :=
    and_lowMask_shiftLeft p hW
  cases refin with
  | false => exact hnormal
  | true => rw [polyx_true_eq_rev32, hnormal, polyx_true_eq_rev32]

/-- Settles O43: reversal turns the left shift into the right shift, and the left shift drops the bits
at and above W. -/
theorem polynomialExpansion : Obligations.PolynomialExpansion := by
  intro p W _ hW
  exact ⟨rfl, rfl, polyx_true_eq_rev32 p W, fun refin => (polyx_and_lowMask p refin hW).symm⟩

/-! ## Table entries -/

/-- An entry is XOR-linear in the byte (R105). -/
theorem entry_xor (P : Word) (refin : Bool) (a b : Byte) :
    entry P refin (a ^^^ b) = entry P refin a ^^^ entry P refin b := by
  rw [entry, entrySeed_xor, entrySteps_xor, ← entry, ← entry]

@[simp] theorem entry_zero (P : Word) (refin : Bool) : entry P refin 0 = 0 := by
  simpa using entry_xor P refin 0 0

/-- Settles O45: seeding and stepping are XOR-linear, so entry 0 is entry 0 XOR itself. -/
theorem tableEntriesAreLinear : Obligations.TableEntriesAreLinear :=
  fun P refin => ⟨entry_zero P refin, entry_xor P refin⟩

theorem rev32_zero : rev32 0 = 0 :=
  BitVec.eq_of_getLsbD_eq fun k _ => by simp

/-- A reflected step on reversed words is the reversal of a normal step (R106). -/
theorem entryStep_rev32 (P v : Word) :
    entryStep (rev32 P) true (rev32 v) = rev32 (entryStep P false v) := by
  have hbit : (rev32 v).getLsbD 0 = v.getLsbD 31 := by simp
  simp only [entryStep, if_true, Bool.false_eq_true, if_false, hbit, rev32_xor, rev32_shiftLeft,
    apply_ite rev32, rev32_zero]

theorem entrySteps_rev32 (P : Word) (n : Nat) (v : Word) :
    entrySteps (rev32 P) true n (rev32 v) = rev32 (entrySteps P false n v) := by
  induction n generalizing v with
  | zero => rfl
  | succ n ih => rw [entrySteps_succ, entryStep_rev32, ih, entrySteps_succ]

theorem rev8_getLsbD (i : Byte) (k : Nat) :
    (rev8 i).getLsbD k = (decide (k < 8) && i.getLsbD (7 - k)) := by
  simp [rev8, BitVec.getLsbD_reverse, BitVec.getMsbD]

/-- The reversed byte at the bottom is the reversal of the byte at the top. -/
theorem entrySeed_rev8 (i : Byte) : entrySeed true (rev8 i) = rev32 (entrySeed false i) := by
  refine BitVec.eq_of_getLsbD_eq fun k hk => ?_
  simp only [entrySeed, if_true, Bool.false_eq_true, if_false, rev32_getLsbD,
    BitVec.getLsbD_shiftLeft, BitVec.getLsbD_setWidth, rev8_getLsbD]
  by_cases hbyte : k < 8
  · simp [hk, hbyte, show ¬ 31 - k < 24 by omega, show 31 - k < 32 by omega,
      show 31 - k - 24 = 7 - k by omega, show 7 - k < 32 by omega]
  · simp [hbyte, show 31 - k < 24 by omega]

theorem entry_rev8 (P : Word) (i : Byte) :
    entry (rev32 P) true (rev8 i) = rev32 (entry P false i) := by
  rw [entry, entrySeed_rev8, entrySteps_rev32, entry]

/-- Settles O46: the two polynomials are reversals of each other, and so is every step. -/
theorem tablesAreReflectionsOfEachOther : Obligations.TablesAreReflectionsOfEachOther := by
  intro p W i _ _
  rw [polyx_true_eq_rev32, entry_rev8]

/-- The steps of R101 as a fold. -/
theorem entrySteps_eq_foldl_range (P : Word) (refin : Bool) (n : Nat) (v : Word) :
    entrySteps P refin n v = (List.range n).foldl (fun u _ => entryStep P refin u) v := by
  induction n generalizing v with
  | zero => rfl
  | succ n ih => rw [entrySteps_succ, ih, List.range_succ_eq_map, List.foldl_cons, List.foldl_map]

/-- Seven shifts bring the byte's only 1 to the top, and the eighth step drops it (R185). -/
theorem entry_false_one (P : Word) : entry P false 1 = P := by
  simp [entry, entrySeed, entryStep]

theorem entry_true_128 (P : Word) : entry P true 128 = P := by
  have hbyte : rev8 1 = 128 := by decide
  have h := entry_rev8 (rev32 P) 1
  rwa [rev32_rev32, entry_false_one, rev32_rev32, hbyte] at h

/-- Settles O44: the eight steps as a fold; the entry of the one byte that drops a 1 last is P. -/
theorem tableEntryIsEightSteps : Obligations.TableEntryIsEightSteps := by
  intro P i
  exact ⟨entrySteps_eq_foldl_range P true 8 _, entrySteps_eq_foldl_range P false 8 _,
    entry_true_128 P, entry_false_one P⟩

/-! ## Tables and the commands -/

/-- A table is determined by its 256 entries. -/
theorem eq_of_entryAt_eq {t u : Table} (h : ∀ i, t.entryAt i = u.entryAt i) : t = u := by
  refine Vector.ext fun i hi => ?_
  simpa [Table.entryAt, Nat.mod_eq_of_lt hi] using h (BitVec.ofNat 8 i)

/-- BUILD with a legal width (R102). -/
theorem execBuild_of_width {s : State} (hW : 1 ≤ s.W ∧ s.W ≤ 32) :
    execBuild s = .next { s with table := some (tableOf (polyx s.poly s.W s.refin) s.refin) } :=
  if_pos hW

/-- The engine invariant says that the table is the one BUILD fills (R37). -/
theorem State.EngineInv.table_eq {s : State} {t : Table} (hs : s.EngineInv) (ht : s.table = some t) :
    t = tableOf (polyx s.poly s.W s.refin) s.refin :=
  eq_of_entryAt_eq fun i => by rw [(hs t ht).2 i, tableOf_entryAt]

/-- BUILD of an engine that exists writes the table it has (R102). -/
theorem execBuild_of_engineInv {s : State} (hs : s.EngineInv) (hv : s.tableValid = true) :
    execBuild s = .next s := by
  obtain ⟨t, ht⟩ := Option.isSome_iff_exists.mp hv
  obtain ⟨hW, -⟩ := hs t ht
  rw [execBuild_of_width hW, ← hs.table_eq ht, ← ht]

/-! ## The words of a command -/

/-- The condition of R71, R75 and R76 on a word is what the decoder checks before it names the
command. -/
theorem wordRuns_of_commandOf {opc : Nat} (hopc : opc < 16) {mk : CtxNum → Nat → Byte → Instr}
    (hmk : ∀ c n imm, commandOf opc c n imm = some (mk c n imm)) :
    wordRuns opc (uses opc).ctx (uses opc).n (uses opc).imm8 mk := by
  intro s w hw
  have hfield : (opcField w).toNat = opc := by
    rw [opcField, hw, BitVec.toNat_ofNat, Nat.mod_eq_of_lt hopc]
  subst hfield
  split
  next hok => exact writeCmd_ok ((decode_eq_ok_iff w _).mpr ⟨hok, hmk _ _ _⟩) s
  next hok =>
    obtain ⟨e, he⟩ := decode_error_of_not w fun ⟨_, hf⟩ => hok hf
    exact writeCmd_error he s

/-- Settles O9: BUILD's table has the entries of R101, and an engine that keeps the invariant has that
table already. -/
theorem buildFillsTheTable : Obligations.BuildFillsTheTable := by
  refine ⟨fun s h1 h32 => ⟨_, execBuild_of_width ⟨h1, h32⟩, tableOf_entryAt _ _⟩, fun s hW => ?_,
    fun s => execBuild_of_engineInv, wordRuns_of_commandOf (by decide) fun _ _ _ => rfl⟩
  have hbad : ¬ (1 ≤ s.W ∧ s.W ≤ 32) := by omega
  exact if_neg hbad

/-- Settles O10: the check of R201 decides between the entry and NO_ENGINE. -/
theorem rdtblReadsOneEntry : Obligations.RdtblReadsOneEntry := by
  refine ⟨fun s t i ht => withEngine_some ht _, fun s t hs ht => ?_,
    fun i s ht => withEngine_none ht _, wordRuns_of_commandOf (by decide) fun _ _ _ => rfl⟩
  rw [(hs t ht).2 0, entry_zero]

/-- Settles O48: BUILD's table is a function of WIDTH, POLY and REFIN. -/
theorem tableDependsOnlyOnItsSpecification : Obligations.TableDependsOnlyOnItsSpecification := by
  intro s u hwidth hpoly hrefin h1 h32
  have hW : u.W = s.W := congrArg BitVec.toNat hwidth.symm
  refine ⟨_, execBuild_of_width ⟨h1, h32⟩, ?_⟩
  rw [exec_build, execBuild_of_width (hW ▸ ⟨h1, h32⟩), hW, hpoly, hrefin]

end Sys2Proof.Machine

/-! # Proofs of the statements about the engine (41_engine.md)

First the pure functions and the alignment they keep, then the commands one by one, then runs of the
accesses that feed a digest. -/

namespace Sys2Proof.Machine

open Sys2Proof.Claims

/-! ## init, byte step and finalize -/

/-- init_fn and polyx are one function: both align the low W bits (R100, R120). -/
theorem initFn_eq_polyx (W : Nat) (refin : Bool) (v : Word) :
    initFn W refin v = polyx v W refin := rfl

/-- A reversed word shifted down shows its low W bits in reverse order. -/
theorem getLsbD_rev32_ushiftRight (v : Word) {W : Nat} (hW : W ≤ 32) (k : Nat) :
    (rev32 v >>> (32 - W)).getLsbD k = (decide (k < W) && v.getLsbD (W - 1 - k)) := by
  rw [BitVec.getLsbD_ushiftRight, rev32_getLsbD]
  by_cases hk : k < W
  · simp [hk, show 32 - W + k < 32 by omega, show 31 - (32 - W + k) = W - 1 - k by omega]
  · simp [hk, show ¬ 32 - W + k < 32 by omega]

/-- A word shifted down shows its top W bits. -/
theorem getLsbD_ushiftRight_alignShift (v : Word) {W : Nat} (hW : W ≤ 32) (k : Nat) :
    (v >>> (32 - W)).getLsbD k = (decide (k < W) && v.getLsbD (32 - W + k)) := by
  rw [BitVec.getLsbD_ushiftRight]
  by_cases hk : k < W
  · simp [hk]
  · simp [hk, BitVec.getLsbD_of_ge v (32 - W + k) (by omega)]

/-- Settles O49: bit by bit, a reversal and a shift. -/
theorem initAlignsTheLowBits : Obligations.InitAlignsTheLowBits := by
  intro v W k _ hW hk
  refine ⟨rfl, rfl, getLsbD_rev32_ushiftRight v hW k, ?_⟩
  change (v <<< (32 - W)).getLsbD k = _
  simp only [BitVec.getLsbD_shiftLeft, hk, decide_true, Bool.true_and, ← Nat.not_lt, decide_not]

theorem lowByte_eq_ofNat (v : Word) : lowByte v = BitVec.ofNat 8 (v &&& 0xFF#32).toNat :=
  (BitVec.ofNat_toNat 8 _).symm

/-- Settles O50: the index is the low byte as a number. -/
theorem byteStepUsesOneEntry : Obligations.ByteStepUsesOneEntry := by
  intro t r b
  rw [← lowByte_eq_ofNat, ← lowByte_eq_ofNat]
  exact ⟨rfl, rfl⟩

/-- XOROUT is XORed in last (R122). -/
theorem finFn_xor_xorout (W : Nat) (refin refout : Bool) (x r : Word) :
    finFn W refin refout x r ^^^ x = finFn W refin refout 0 r := by
  simp [finFn]

theorem finFn_true_true_zero (W : Nat) (r : Word) : finFn W true true 0 r = r := BitVec.xor_zero

theorem finFn_false_true_zero (W : Nat) (r : Word) : finFn W false true 0 r = rev32 r :=
  BitVec.xor_zero

/-- Settles O51: the two flags select the four expressions, whose bits are those of a shift and a
reversal. -/
theorem finalizeReflectsShiftsAndMasks : Obligations.FinalizeReflectsShiftsAndMasks := by
  intro W k x r _ hW hk
  have hx : ∀ v : Word, v ^^^ x ^^^ x = v := fun v => by simp
  refine ⟨rfl, rfl, rfl, rfl, ?_, ?_, ?_⟩
  · rw [← getLsbD_ushiftRight_alignShift r hW k]
    exact congrArg (·.getLsbD k) (hx _)
  · rw [← getLsbD_rev32_ushiftRight r hW k]
    exact congrArg (·.getLsbD k) (hx _)
  · rw [finFn_xor_xorout, finFn_false_true_zero, rev32_getLsbD, decide_eq_true hk, Bool.true_and]

/-! ## Alignment -/

theorem aligned_xor {W : Nat} {refin : Bool} {v w : Word} (hv : aligned W refin v)
    (hw : aligned W refin w) : aligned W refin (v ^^^ w) := by
  intro k hk
  rw [BitVec.getLsbD_xor, hv k hk, hw k hk, Bool.xor_false]

/-- The shift of the byte step moves zeros into the unused bits. -/
theorem aligned_shiftOut {W : Nat} {refin : Bool} {r : Word} (h : aligned W refin r) (n : Nat) :
    aligned W refin (shiftOut refin n r) := by
  cases refin with
  | false =>
    rw [aligned_false_iff] at h ⊢
    intro k hk
    simp [shiftOut, h (k - n) (by omega)]
  | true =>
    rw [aligned_true_iff] at h ⊢
    intro k hk
    simp [shiftOut, h (n + k) (by omega)]

/-- A step through the engine's table keeps the alignment (R129). -/
theorem aligned_crcStep {W : Nat} {refin : Bool} {P r : Word} (hP : aligned W refin P)
    (hr : aligned W refin r) (b : Byte) :
    aligned W refin (crcStep (tableOf P refin) refin r b) := by
  rw [crcStep_eq, tableOf_entryAt]
  exact aligned_xor (aligned_entry hP _) (aligned_shiftOut hr 8)

/-- Right-aligned in W bits is below 2^W. -/
theorem aligned_true_iff_toNat_lt (W : Nat) (v : Word) : aligned W true v ↔ v.toNat < 2 ^ W := by
  rw [aligned_true_iff]
  constructor
  · intro h
    exact Nat.lt_pow_two_of_testBit _ fun k hk => (BitVec.testBit_toNat v).trans (h k hk)
  · intro h k hk
    rw [← BitVec.testBit_toNat]
    exact Nat.testBit_eq_false_of_lt (h.trans_le (Nat.pow_le_pow_right (by decide) hk))

theorem aligned_ushiftRight {W : Nat} (hW : W ≤ 32) (v : Word) :
    aligned W true (v >>> (32 - W)) := by
  refine (aligned_true_iff _ _).mpr fun k hk => ?_
  simp [getLsbD_ushiftRight_alignShift v hW, Nat.not_lt.mpr hk]

theorem aligned_rev32 {W : Nat} {v : Word} (h : aligned W false v) : aligned W true (rev32 v) := by
  rw [aligned_false_iff] at h
  refine (aligned_true_iff _ _).mpr fun k hk => ?_
  by_cases hk32 : k < 32
  · simp [h (31 - k) (by omega)]
  · simp [hk32]

/-- Before XOROUT the result of an aligned register is right-aligned (R129). -/
theorem aligned_finFn {W : Nat} {refin : Bool} {r : Word} (hW : W ≤ 32) (hr : aligned W refin r)
    (refout : Bool) : aligned W true (finFn W refin refout 0 r) := by
  cases refin <;> cases refout <;> simp only [finFn, BitVec.ofNat_eq_ofNat, BitVec.xor_zero]
  case false.false => exact aligned_ushiftRight hW r
  case false.true => exact aligned_rev32 hr
  case true.false => exact aligned_ushiftRight hW (rev32 r)
  case true.true => exact hr

/-- The word of 32 ones is too large for fewer bits. -/
theorem two_pow_le_toNat_allOnes {W : Nat} (hW : W < 32) : 2 ^ W ≤ (BitVec.allOnes 32).toNat := by
  have hpow : 2 ^ W < 2 ^ 32 := Nat.pow_lt_pow_right (by decide) hW
  rw [BitVec.toNat_allOnes]
  omega

/-- Settles O53: init, step and finalize keep the alignment; the word of 32 ones is not aligned. -/
theorem alignedRegistersGiveMaskedResults : Obligations.AlignedRegistersGiveMaskedResults := by
  intro p v r x W refin refout b _ hW
  refine ⟨initFn_eq_polyx W refin v ▸ aligned_polyx v refin hW, fun hr => ?_, fun hlt => ?_⟩
  · have hfin : aligned W true (finFn W refin refout x r ^^^ x) := by
      rw [finFn_xor_xorout]
      exact aligned_finFn hW hr refout
    refine ⟨aligned_crcStep (aligned_polyx p refin hW) hr b,
      (aligned_true_iff_toNat_lt _ _).mp hfin, fun hx => ?_⟩
    have hsum := aligned_xor hfin ((aligned_true_iff_toNat_lt _ _).mpr hx)
    rw [BitVec.xor_assoc, BitVec.xor_self, BitVec.xor_zero] at hsum
    exact (aligned_true_iff_toNat_lt _ _).mp hsum
  · refine ⟨⟨BitVec.allOnes 32, ?_⟩, rev32 (BitVec.allOnes 32), ?_⟩
    · rw [finFn_true_true_zero]
      exact two_pow_le_toNat_allOnes hlt
    · rw [finFn_false_true_zero, rev32_rev32]
      exact two_pow_le_toNat_allOnes hlt

/-! ## The checks of a command that names a context -/

theorem failsWithoutEngine_of_usesCtx {i : Instr} {c : CtxNum} (hi : usesCtx i = some c) :
    failsWithoutEngine i := by
  intro s ht
  refine exec_of_commandError ?_
  simp [commandError_of_usesCtx hi, State.tableValid, ht]

theorem failsOnBadCtx_of_usesCtx {i : Instr} {c : CtxNum} (hi : usesCtx i = some c) :
    failsOnBadCtx i c := by
  intro s t ht hc
  refine exec_of_commandError ?_
  simp [commandError_of_usesCtx hi, State.tableValid, ht, hc]

theorem failsOnNotLive_of_needsLive {i : Instr} {c : CtxNum} (hi : usesCtx i = some c)
    (hl : needsLive i = true) : failsOnNotLive i c := by
  intro s t ht hc hd
  refine exec_of_commandError ?_
  simp [commandError_of_usesCtx hi, State.tableValid, State.live, ht, Nat.not_le.mpr hc, hl, hd]

/-- The errors of DINIT, DINITC and LDREG. -/
theorem fails_of_usesCtx {i : Instr} {c : CtxNum} (hi : usesCtx i = some c) :
    failsWithoutEngine i ∧ failsOnBadCtx i c :=
  ⟨failsWithoutEngine_of_usesCtx hi, failsOnBadCtx_of_usesCtx hi⟩

/-- The errors of UPD, UPDN, UPDV, FIN and RDREG. -/
theorem fails_of_needsLive {i : Instr} {c : CtxNum} (hi : usesCtx i = some c)
    (hl : needsLive i = true) :
    failsWithoutEngine i ∧ failsOnBadCtx i c ∧ failsOnNotLive i c :=
  ⟨failsWithoutEngine_of_usesCtx hi, failsOnBadCtx_of_usesCtx hi,
    failsOnNotLive_of_needsLive hi hl⟩

/-- A check for a digest that fails does so again after its error is recorded, and recording the same
code twice is recording it once (R203). -/
theorem withDigest_fails_or_live (s : State) (c : CtxNum) :
    (∃ code, ∀ k, withDigest s c k = .next (raiseCmdError code s) ∧
      withDigest (raiseCmdError code s) c k = .next (raiseCmdError code s)) ∨
    ∃ t d, s.table = some t ∧ c.toNat < s.params.nCtx ∧ s.ctx c = some d := by
  cases ht : s.table with
  | none => exact .inl ⟨.noEngine, fun k =>
    ⟨withDigest_none ht k, withDigest_none (s := raiseCmdError _ s) ht k⟩⟩
  | some t =>
    rcases Nat.lt_or_ge c.toNat s.params.nCtx with hc | hc
    · cases hd : s.ctx c with
      | none =>
        exact .inl ⟨.notLive, fun k =>
          ⟨withDigest_notLive ht hc hd k,
            withDigest_notLive (s := raiseCmdError _ s) ht hc hd k⟩⟩
      | some d => exact .inr ⟨t, d, rfl, hc, rfl⟩
    · exact .inl ⟨.badCtx, fun k =>
        ⟨withDigest_badCtx ht hc k, withDigest_badCtx (s := raiseCmdError _ s) ht hc k⟩⟩

/-! ## Sequences of commands -/

theorem execAll_cons_of_next {i : Instr} {s u : State} (h : exec i s = .next u) (is : List Instr) :
    execAll (i :: is) s = execAll is u := by
  simp [execAll, h]

/-- Two commands, each of which answers. -/
theorem execAll_pair {i j : Instr} {s u v : State} (hi : exec i s = .next u)
    (hj : exec j u = .next v) : execAll [i, j] s = .next v := by
  rw [execAll_cons_of_next hi, execAll_cons_of_next hj, execAll]

/-! ## The commands on an engine's contexts -/

section

variable {s : State} {t : Table} {c : CtxNum} (ht : s.table = some t) (hc : c.toNat < s.params.nCtx)
include ht hc

theorem execDinit_ok :
    execDinit c s = .next (createDigest s c (initFn s.W s.refin s.init)) := withCtx_ok ht hc _

theorem execDinitc_ok :
    execDinitc c s = .next (createDigest s c (initFn s.W s.refin s.arg)) := withCtx_ok ht hc _

theorem execLdreg_ok : execLdreg c s = .next (createDigest s c s.arg) := withCtx_ok ht hc _

variable {d : Digest} (hd : s.ctx c = some d)
include hd

theorem feedBytes_live (bs : List Byte) :
    feedBytes c bs s = .next (if d.poison then s
      else s.setCtx c (some { d with reg := updateBytes t s.refin d.reg bs })) :=
  withDigest_ok ht hc hd _

theorem execFin_live :
    execFin c s = .next (({ s with
      result := if d.poison then 0 else finFn s.W s.refin s.refout s.xorout d.reg } : State).setCtx
        c none) :=
  withDigest_ok ht hc hd _

theorem execRdreg_live :
    execRdreg c s = .next { s with result := if d.poison then 0 else d.reg } :=
  withDigest_ok ht hc hd _

/-- The short circuit of R125. -/
theorem feedBytes_poisoned (hp : d.poison = true) (bs : List Byte) :
    feedBytes c bs s = .next s := by
  rw [feedBytes_live ht hc hd, if_pos hp]

theorem feedBytes_unpoisoned (hp : d.poison = false) (bs : List Byte) :
    feedBytes c bs s =
      .next (s.setCtx c (some { d with reg := updateBytes t s.refin d.reg bs })) := by
  rw [feedBytes_live ht hc hd, if_neg (Bool.eq_false_iff.mp hp)]

theorem execUpdv_poisoned (hp : d.poison = true) : execUpdv c s = .next s := by
  rw [execUpdv, withDigest_ok ht hc hd, if_pos hp]

theorem execUpdv_accept (hp : d.poison = false) {b : Byte}
    (hv : validateByte s.params.validate s.arg = some b) :
    execUpdv c s = .next (s.setCtx c (some { d with reg := crcStep t s.refin d.reg b })) := by
  rw [execUpdv, withDigest_ok ht hc hd, if_neg (Bool.eq_false_iff.mp hp), hv]

theorem execUpdv_reject (hp : d.poison = false)
    (hv : validateByte s.params.validate s.arg = none) :
    execUpdv c s = .next (s.setCtx c (some { d with poison := true })) := by
  rw [execUpdv, withDigest_ok ht hc hd, if_neg (Bool.eq_false_iff.mp hp), hv]

end

/-- Settles O8: the arm of NOP is the identity. -/
theorem nopChangesNothing : Obligations.NopChangesNothing :=
  ⟨fun _ => rfl, wordRuns_of_commandOf (by decide) fun _ _ _ => rfl⟩

/-- Settles O11: the checks of R201 decide between the new digest and an error. -/
theorem dinitStartsADigestFromInit : Obligations.DinitStartsADigestFromInit :=
  ⟨fun _ _ _ ht hc => execDinit_ok ht hc, fun _ => fails_of_usesCtx rfl,
    wordRuns_of_commandOf (by decide) fun _ _ _ => rfl⟩

/-- Settles O12: as DINIT, on ARG in the place of INIT. -/
theorem dinitcStartsADigestFromArg : Obligations.DinitcStartsADigestFromArg := by
  refine ⟨fun _ _ _ ht hc => execDinitc_ok ht hc, fun s c harg => ?_,
    fun _ => fails_of_usesCtx rfl, wordRuns_of_commandOf (by decide) fun _ _ _ => rfl⟩
  rw [exec_dinitc, exec_dinit, execDinitc, execDinit, harg]

/-- Settles O13: RDREG reads the digest that LDREG left. -/
theorem ldregLoadsArgAsItIs : Obligations.LdregLoadsArgAsItIs := by
  refine ⟨fun s t c ht hc => ?_, fun _ => fails_of_usesCtx rfl,
    wordRuns_of_commandOf (by decide) fun _ _ _ => rfl⟩
  have hload : exec (.ldreg c) s = .next (createDigest s c s.arg) := execLdreg_ok ht hc
  exact ⟨hload, execAll_pair hload (execRdreg_live (s := createDigest s c s.arg) ht hc
    (ctx_setCtx_self s c _))⟩

/-- Settles O14: UPD feeds the list of its one byte. -/
theorem updFeedsOneByte : Obligations.UpdFeedsOneByte :=
  ⟨fun _ _ _ _ b ht hc hd => feedBytes_live ht hc hd [b], fun _ _ => fails_of_needsLive rfl rfl,
    wordRuns_of_commandOf (by decide) fun _ _ _ => rfl⟩

/-- Settles O17: a second FIN finds no digest. -/
theorem finDeliversAndConsumes : Obligations.FinDeliversAndConsumes := by
  refine ⟨fun s t c d ht hc hd => ?_, fun _ => fails_of_needsLive rfl rfl,
    wordRuns_of_commandOf (by decide) fun _ _ _ => rfl⟩
  have hfin : exec (.fin c) s = _ := execFin_live ht hc hd
  exact ⟨hfin, execAll_pair hfin
    (withDigest_notLive (s := State.setCtx { s with result := _ } c none) ht hc
      (ctx_setCtx_self _ c none) _)⟩

/-- Settles O18: the checks of R201 decide between the register and an error. -/
theorem rdregReadsTheRegister : Obligations.RdregReadsTheRegister :=
  ⟨fun _ _ _ _ ht hc hd => execRdreg_live ht hc hd, fun _ => fails_of_needsLive rfl rfl,
    wordRuns_of_commandOf (by decide) fun _ _ _ => rfl⟩

/-! ## UPDN -/

/-- The bytes UPDN feeds are the lanes of ARG in order (R56, R135). -/
theorem argBytes_eq_map_lane (arg : Word) {n : Nat} (hn : n ≤ 4) :
    argBytes arg n = (List.range n).map (lane arg) := by
  have htake : argBytes arg n = ((List.range 4).map (lane arg)).take n := rfl
  rw [htake, ← List.map_take, List.take_range, min_eq_left hn]

/-- Feeding a byte and then the others is feeding them all, in every state: an error is recorded
once (R127). -/
theorem feedBytes_cons {c : CtxNum} {b : Byte} {s u : State} (h : feedBytes c [b] s = .next u)
    (bs : List Byte) : feedBytes c (b :: bs) s = feedBytes c bs u := by
  rcases withDigest_fails_or_live s c with ⟨code, hfail⟩ | ⟨t, d, ht, hc, hd⟩
  · -- an error: recorded by the first byte, and not again by the others
    obtain rfl : raiseCmdError code s = u := Host.Outcome.next.inj ((hfail _).1.symm.trans h)
    exact (hfail _).1.trans (hfail _).2.symm
  · cases hp : d.poison with
    | true =>
      obtain rfl : s = u :=
        Host.Outcome.next.inj ((feedBytes_poisoned ht hc hd hp [b]).symm.trans h)
      rw [feedBytes_poisoned ht hc hd hp, feedBytes_poisoned ht hc hd hp]
    | false =>
      obtain rfl := Host.Outcome.next.inj ((feedBytes_unpoisoned ht hc hd hp [b]).symm.trans h)
      rw [feedBytes_unpoisoned ht hc hd hp,
        feedBytes_unpoisoned
          (s := s.setCtx c (some { d with reg := updateBytes t s.refin d.reg [b] })) ht hc
          (ctx_setCtx_self s c _) hp,
        setCtx_setCtx_self]
      rfl

/-- Feeding bytes is a sequence of UPD commands (R135). -/
theorem feedBytes_eq_execAll (c : CtxNum) (b : Byte) (bs : List Byte) (s : State) :
    feedBytes c (b :: bs) s = execAll ((b :: bs).map (.upd c)) s := by
  obtain ⟨u, hu, -⟩ := exec_cases (.upd c b) s
  rw [List.map_cons, execAll_cons_of_next hu]
  induction bs generalizing b s u with
  | nil => exact hu
  | cons b' bs ih =>
    obtain ⟨v, hv, -⟩ := exec_cases (.upd c b') u
    rw [feedBytes_cons hu, List.map_cons, execAll_cons_of_next hv, ih b' u v hv]

/-- Settles O15: UPDN feeds the lanes of ARG, and feeding is a sequence of UPD commands. -/
theorem updnFeedsTheLanesOfArg : Obligations.UpdnFeedsTheLanesOfArg := by
  refine ⟨fun s t c d n _ h4 ht hc hd => ?_, fun s c n h1 h4 => ?_,
    fun _ _ => fails_of_needsLive rfl rfl, wordRuns_of_commandOf (by decide) fun _ _ _ => rfl⟩
  · rw [exec_updn, execUpdn, feedBytes_live ht hc hd, argBytes_eq_map_lane s.arg h4, updateBytes,
      List.foldl_map]
    rfl
  · obtain ⟨m, rfl⟩ := Nat.exists_eq_add_of_le' h1
    have hsplit := argBytes_eq_map_lane s.arg h4
    rw [List.range_succ_eq_map, List.map_cons] at hsplit
    rw [exec_updn, execUpdn, hsplit, feedBytes_eq_execAll, List.range_succ_eq_map, List.map_cons,
      List.map_cons, List.map_map]
    rfl

/-! ## UPDV -/

/-- NONE accepts every value, ACTIVE the values of a byte (R124). -/
theorem validateByte_accept {strategy : Validate} {v : Word}
    (h : strategy = .off ∨ v.toNat ≤ 255) : validateByte strategy v = some (v.setWidth 8) := by
  cases strategy with
  | off => rfl
  | active => exact if_pos (h.resolve_left (by decide))

theorem validateByte_reject {v : Word} (h : 255 < v.toNat) : validateByte .active v = none :=
  if_neg (Nat.not_le.mpr h)

/-- A value of a byte makes UPDV the UPD of that byte, whatever the state (R136). -/
theorem execUpdv_eq_execUpd {s : State} (h : s.arg.toNat ≤ 255) (c : CtxNum) :
    execUpdv c s = execUpd c (s.arg.setWidth 8) s := by
  simp only [execUpdv, validateByte_accept (.inr h)]
  rfl

/-- Settles O16: the validation strategy and POISON decide between feeding, poisoning and
skipping. -/
theorem updvValidatesArg : Obligations.UpdvValidatesArg := by
  refine ⟨fun s t c d ht hc hd => ⟨fun hp => execUpdv_poisoned ht hc hd hp, fun hp hv => ?_,
      fun hp hs hbig => ?_⟩, fun s c hbyte => ?_, fun _ => fails_of_needsLive rfl rfl,
    wordRuns_of_commandOf (by decide) fun _ _ _ => rfl⟩
  · rw [← BitVec.setWidth_eq_extractLsb' (by decide)]
    exact execUpdv_accept ht hc hd hp (validateByte_accept hv)
  · exact execUpdv_reject ht hc hd hp (hs ▸ validateByte_reject hbig)
  · rw [BitVec.ofNat_toNat]
    exact execUpdv_eq_execUpd hbyte c

/-! ## POISON -/

theorem poison_of_ctx {s : State} {c : CtxNum} {d : Digest} (h : s.ctx c = some d) :
    s.poison c = d.poison := by
  simp [State.poison, h]

theorem poison_of_ctx_none {s : State} {c : CtxNum} (h : s.ctx c = none) : s.poison c = false := by
  simp [State.poison, h]

theorem reg_of_ctx {s : State} {c : CtxNum} {d : Digest} (h : s.ctx c = some d) :
    s.reg c = some d.reg := by
  simp [State.reg, h]

/-- A poisoned context skips its updates (R125). -/
theorem exec_update_poisoned {s : State} {t : Table} {c : CtxNum} {d : Digest}
    (ht : s.table = some t) (hc : c.toNat < s.params.nCtx) (hd : s.ctx c = some d)
    (hp : d.poison = true) {i : Instr} (hi : isUpdate i c) : exec i s = .next s := by
  rcases hi with ⟨b, rfl⟩ | ⟨n, rfl⟩ | rfl
  · exact feedBytes_poisoned ht hc hd hp _
  · exact feedBytes_poisoned ht hc hd hp _
  · exact execUpdv_poisoned ht hc hd hp

theorem poison_createDigest (s : State) (c : CtxNum) (r : Word) :
    (createDigest s c r).poison c = false :=
  poison_of_ctx (ctx_setCtx_self s c _)

/-- Settles O21: the meanings of the commands on a poisoned digest, on a rejected value, and of the
commands that end or replace a digest. -/
theorem poisonedContextReturnsTheSentinel : Obligations.PoisonedContextReturnsTheSentinel := by
  intro s t c d ht hc hd
  refine ⟨fun hp => ⟨fun i hi => exec_update_poisoned ht hc hd hp hi,
      ⟨_, execFin_live ht hc hd, if_pos hp⟩, ⟨_, execRdreg_live ht hc hd, if_pos hp, hd⟩⟩,
    fun hp hs hbig => ?_, ?_⟩
  · have hctx := ctx_setCtx_self s c (some { d with poison := true })
    exact ⟨_, execUpdv_reject ht hc hd hp (hs ▸ validateByte_reject hbig), poison_of_ctx hctx,
      (reg_of_ctx hctx).trans (reg_of_ctx hd).symm, rfl, rfl⟩
  · rintro i (rfl | rfl | rfl | rfl)
    · exact ⟨_, execDinit_ok ht hc, poison_createDigest s c _⟩
    · exact ⟨_, execDinitc_ok ht hc, poison_createDigest s c _⟩
    · exact ⟨_, execLdreg_ok ht hc, poison_createDigest s c _⟩
    · exact ⟨_, execFin_live ht hc hd, poison_of_ctx_none (ctx_setCtx_self _ c none)⟩

/-! ## One context -/

/-- The effect of a command writes no context but the one it names. -/
theorem Effect.ctx_of_usesCtx_ne {i : Instr} {s u : State} {k : CtxNum} (h : Effect i s u)
    (hk : usesCtx i ≠ some k) : u.ctx k = s.ctx k := by
  have hne : ∀ {c}, usesCtx i = some c → k ≠ c := fun hc e => hk (e ▸ hc)
  cases h with
  | create c r hv hc hi =>
    refine ctx_setCtx_of_ne s _ (hne ?_)
    rcases hi with rfl | rfl | rfl <;> rfl
  | feed c d r hd hp hi => exact ctx_setCtx_of_ne s _ (hne hi)
  | reject c d hd hv hi => exact ctx_setCtx_of_ne s _ (hne (by rw [hi]; rfl))
  | fin c d v hd hi => exact ctx_setCtx_of_ne _ _ (hne (by rw [hi]; rfl))
  | _ => rfl

/-- Settles O23: a recorded error writes no context, an effect at most the one its command names. -/
theorem commandsTouchOneContext : Obligations.CommandsTouchOneContext := by
  intro i s s' k h hk
  rcases exec_next h with ⟨code, -, rfl⟩ | h
  · rfl
  · exact h.ctx_of_usesCtx_ne hk

/-! ## The checksum of no bytes -/

/-- The reflected alignment is the reversal of the normal one (R120). -/
theorem initFn_true_eq_rev32 (W : Nat) (v : Word) : initFn W true v = rev32 (initFn W false v) := by
  rw [initFn_eq_polyx, initFn_eq_polyx, polyx_true_eq_rev32]

/-- A digest of no bytes does not depend on REFIN (R128). -/
theorem finFn_initFn (W : Nat) (refin refout : Bool) (x v : Word) :
    finFn W refin refout x (initFn W refin v) =
      (if refout then initFn W true v else initFn W false v >>> (32 - W)) ^^^ x := by
  cases refin <;> cases refout <;> simp [finFn, alignShift, initFn_true_eq_rev32]

/-- The normal alignment and its inverse leave the low W bits. -/
theorem initFn_false_ushiftRight {W : Nat} (hW : W ≤ 32) (v : Word) :
    initFn W false v >>> (32 - W) = v &&& BitVec.ofNat 32 (2 ^ W - 1) := by
  refine BitVec.eq_of_getLsbD_eq fun k hk => ?_
  rw [getLsbD_ushiftRight_alignShift _ hW, BitVec.getLsbD_and, getLsbD_lowMask]
  by_cases hkW : k < W
  · simp [initFn, alignShift, hk, hkW, show 32 - W + k < 32 by omega]
  · simp [hkW]

/-- Settles O54: FIN finalizes the register DINIT made, and finalizing undoes the alignment. -/
theorem emptyInputChecksum : Obligations.EmptyInputChecksum := by
  intro s t c ht hc _ hW
  refine ⟨_, execAll_pair (execDinit_ok ht hc)
    (execFin_live (s := createDigest s c _) ht hc (ctx_setCtx_self s c _)), rfl, ?_⟩
  have hreflected : initFn s.W true s.init =
      rev32 (s.init &&& BitVec.ofNat 32 (2 ^ s.W - 1)) >>> (32 - s.W) := by
    rw [initFn_eq_polyx, ← polyx_and_lowMask s.init true hW]
    rfl
  rw [← hreflected, ← initFn_false_ushiftRight hW]
  exact finFn_initFn s.W s.refin s.refout s.xorout s.init

/-! ## Runs of accesses -/

/-- A run of m + n steps goes on where m steps ended. -/
theorem run_add_of_next {M : Host.Core} {m : Nat} {s u : M.State} (h : M.run m s = .next u)
    (n : Nat) : M.run (m + n) s = M.run n u := by
  induction m generalizing s with
  | zero =>
    obtain rfl : s = u := Host.Outcome.next.inj h
    rw [Nat.zero_add]
  | succ m ih =>
    rw [Nat.succ_add]
    simp only [Host.Core.run] at h ⊢
    cases hs : M.step s with
    | next v =>
      rw [hs] at h
      exact ih h
    | fault e => simp [hs] at h
    | refused e => simp [hs] at h

theorem run_one_of_step {s u : State} (h : step s = .next u) :
    Host.Core.run core 1 s = .next u := by
  simp [Host.Core.run, core, h]

theorem run_two_of_steps {s u v : State} (h : step s = .next u) (h' : step u = .next v) :
    Host.Core.run core 2 s = .next v :=
  (run_add_of_next (run_one_of_step h) 1).trans (run_one_of_step h')

/-- The host's write of a legal command executes it, answered as completed (R81, R178). -/
theorem step_command {s : State} {i : Instr} {rest : List Input} (hwf : i.wf = true)
    (hp : s.pending = .access (command s.params i) :: rest) :
    step s = exec i ((s.received (.access (command s.params i)) rest).respond .ack) := by
  rw [step_cons hp]
  exact (busWrite_reg (s.received _ rest) .cmd (encode i)).trans
    (writeCmd_ok (decodeAfterEncode i hwf) _)

/-- The host's write of ARG (R177). -/
theorem step_wr_arg {s : State} {v : Word} {rest : List Input}
    (hp : s.pending = .access (wr s.params .arg v) :: rest) :
    step s =
      .next (writeArg v ((s.received (.access (wr s.params .arg v)) rest).respond .ack)) := by
  rw [step_cons hp]
  exact busWrite_reg (s.received _ rest) .arg v

/-- The host's read of RESULT (R188). -/
theorem step_rd_result {s : State} {rest : List Input}
    (hp : s.pending = .access (rd s.params .result) :: rest) :
    step s =
      .next ((s.received (.access (rd s.params .result)) rest).respond (.data s.result)) := by
  rw [step_cons hp]
  exact busRead_reg (s := s.received _ rest) (r := .result) rfl

/-! ## Feeding a digest, access by access -/

/-- The state after n completed accesses that fed context c: ARG is a, context c holds r unpoisoned,
and rest is still to come. -/
def fedState (s : State) (c : CtxNum) (rest : List Input) (n : Nat) (a r : Word) : State :=
  { s with
    pending := rest, pc := s.pc + n, trace := s.trace ++ List.replicate n .ack, arg := a,
    ctxs := s.ctxs.set c.toNat (some { reg := r, poison := false }) c.isLt }

@[simp] theorem fedState_ctx (s : State) (c : CtxNum) (rest : List Input) (n : Nat) (a r : Word) :
    (fedState s c rest n a r).ctx c = some { reg := r, poison := false } :=
  ctx_setCtx_self s c _

theorem fedState_fedState (s : State) (c : CtxNum) (rest rest' : List Input) (m n : Nat)
    (a a' r r' : Word) :
    fedState (fedState s c rest m a r) c rest' n a' r' = fedState s c rest' (m + n) a' r' := by
  simp [fedState, Nat.add_assoc]

theorem setCtx_of_ctx {s : State} {c : CtxNum} {d : Option Digest} (h : s.ctx c = d) :
    s.setCtx c d = s := by
  subst h
  simp [State.setCtx, State.ctx]

/-- The state that has taken no access yet. -/
theorem fedState_zero {s : State} {c : CtxNum} {r : Word}
    (hd : s.ctx c = some { reg := r, poison := false }) :
    fedState s c s.pending 0 s.arg r = s := by
  have hset := congrArg State.ctxs (setCtx_of_ctx hd)
  simp only [setCtx_ctxs] at hset
  simp [fedState, hset]

section

variable {s : State} {t : Table} {c : CtxNum} {rest : List Input} (ht : s.table = some t)
  (hc : c.toNat < s.params.nCtx)
include ht hc

theorem step_dinit (hp : s.pending = .access (command s.params (.dinit c)) :: rest) :
    step s = .next (fedState s c rest 1 s.arg (initFn s.W s.refin s.init)) :=
  (step_command rfl hp).trans (execDinit_ok (s := (s.received _ rest).respond .ack) ht hc)

variable {r : Word} (hd : s.ctx c = some { reg := r, poison := false })
include hd

theorem step_upd {b : Byte} (hp : s.pending = .access (command s.params (.upd c b)) :: rest) :
    step s = .next (fedState s c rest 1 s.arg (crcStep t s.refin r b)) :=
  (step_command rfl hp).trans
    (feedBytes_unpoisoned (s := (s.received _ rest).respond .ack) ht hc hd rfl [b])

theorem step_updn {n : Nat} (h1 : 1 ≤ n) (h4 : n ≤ 4)
    (hp : s.pending = .access (command s.params (.updn c n)) :: rest) :
    step s = .next (fedState s c rest 1 s.arg (updateBytes t s.refin r (argBytes s.arg n))) := by
  have hwf : (Instr.updn c n).wf = true := by simp [Instr.wf, h1, h4]
  exact (step_command hwf hp).trans
    (feedBytes_unpoisoned (s := (s.received _ rest).respond .ack) ht hc hd rfl _)

omit ht hc in
theorem step_wr_arg_fedState {v : Word} (hp : s.pending = .access (wr s.params .arg v) :: rest) :
    step s = .next (fedState s c rest 1 v r) := by
  exact (step_wr_arg hp).trans (congrArg Host.Outcome.next
    (setCtx_of_ctx (s := writeArg v ((s.received _ rest).respond .ack)) hd).symm)

/-- The accesses of one chunk feed its bytes. -/
theorem run_chunk {x : Chunk} (hx : x.ok)
    (hp : s.pending = (x.accesses s.params c).map Input.access ++ rest) :
    ∃ a, Host.Core.run core (x.accesses s.params c).length s =
      .next (fedState s c rest (x.accesses s.params c).length a
        (updateBytes t s.refin r x.bytes)) := by
  cases x with
  | one b => exact ⟨_, run_one_of_step (step_upd ht hc hd hp)⟩
  | packed v n =>
    obtain ⟨h1, h4⟩ := hx
    refine ⟨v, ?_⟩
    have hfeed := run_two_of_steps (step_wr_arg_fedState hd hp)
      (step_updn (s := fedState s c _ 1 v r) ht hc (fedState_ctx s c _ 1 v r) h1 h4 rfl)
    rwa [fedState_fedState] at hfeed

/-- The accesses of any chunks feed their bytes in order (R127). -/
theorem run_chunks {xs : List Chunk} (hxs : ∀ x ∈ xs, x.ok)
    (hp : s.pending = (xs.flatMap (Chunk.accesses s.params c)).map Input.access ++ rest) :
    ∃ a, Host.Core.run core (xs.flatMap (Chunk.accesses s.params c)).length s =
      .next (fedState s c rest (xs.flatMap (Chunk.accesses s.params c)).length a
        (updateBytes t s.refin r (xs.flatMap Chunk.bytes))) := by
  induction xs generalizing s r with
  | nil =>
    obtain rfl : s.pending = rest := hp
    exact ⟨s.arg, congrArg Host.Outcome.next (fedState_zero hd).symm⟩
  | cons x xs ih =>
    rw [List.flatMap_cons, List.map_append, List.append_assoc] at hp
    obtain ⟨a, hx⟩ := run_chunk ht hc hd (hxs x List.mem_cons_self) hp
    obtain ⟨a', hrest⟩ := ih
      (s := fedState s c ((xs.flatMap (Chunk.accesses s.params c)).map .access ++ rest) _ a _) ht hc
      (fedState_ctx s c _ _ a _)
      (fun y hy => hxs y (List.mem_cons_of_mem x hy)) rfl
    refine ⟨a', ?_⟩
    rw [List.flatMap_cons, List.flatMap_cons, List.length_append, updateBytes_append,
      run_add_of_next hx]
    rw [fedState_fedState] at hrest
    exact hrest

omit hd in
/-- DINIT and then any chunks leave the fold over their bytes (R127). -/
theorem run_dinit_chunks {xs : List Chunk} (hxs : ∀ x ∈ xs, x.ok)
    (hp : s.pending = (command s.params (.dinit c) ::
      xs.flatMap (Chunk.accesses s.params c)).map Input.access ++ rest) :
    ∃ a, Host.Core.run core ((xs.flatMap (Chunk.accesses s.params c)).length + 1) s =
      .next (fedState s c rest ((xs.flatMap (Chunk.accesses s.params c)).length + 1) a
        (updateBytes t s.refin (initFn s.W s.refin s.init) (xs.flatMap Chunk.bytes))) := by
  have hinit := run_one_of_step (step_dinit ht hc hp)
  obtain ⟨a, hfeed⟩ := run_chunks
    (s := fedState s c ((xs.flatMap (Chunk.accesses s.params c)).map .access ++ rest) 1 s.arg _)
    ht hc (fedState_ctx s c _ 1 s.arg _) hxs rfl
  refine ⟨a, ?_⟩
  rw [Nat.add_comm, run_add_of_next hinit]
  rw [fedState_fedState] at hfeed
  exact hfeed

end

/-- Settles O56: each chunk advances the register by its bytes, so all of them by the whole
sequence. -/
theorem chunkingDoesNotMatter : Obligations.ChunkingDoesNotMatter := by
  intro s t c xs rest ht hc hxs hp
  obtain ⟨a, hrun⟩ := run_dinit_chunks ht hc hxs hp
  exact ⟨_, hrun, rfl, ht, fedState_ctx s c rest _ a _⟩

/-- FEED is a list of chunks of one byte each. -/
theorem feed_eq_flatMap (p : Params) (c : CtxNum) (bs : List Byte) :
    feed p c bs = (bs.map Chunk.one).flatMap (Chunk.accesses p c) := by
  rw [List.flatMap_map, feed, List.map_eq_flatMap]
  rfl

theorem flatMap_bytes_map_one (bs : List Byte) :
    (bs.map Chunk.one).flatMap Chunk.bytes = bs := by
  rw [List.flatMap_map]
  exact List.flatMap_singleton' bs

/-- DINIT and FEED leave the fold over the bytes, every access completed. -/
theorem run_digest_feed {s : State} {t : Table} {c : CtxNum} {bs : List Byte} {rest : List Input}
    (ht : s.table = some t) (hc : c.toNat < s.params.nCtx)
    (hp : s.pending = (digest s.params c ++ feed s.params c bs).map Input.access ++ rest) :
    ∃ a, Host.Core.run core (bs.length + 1) s = .next (fedState s c rest (bs.length + 1) a
      (updateBytes t s.refin (initFn s.W s.refin s.init) bs)) := by
  have hlen : (feed s.params c bs).length = bs.length := List.length_map _
  have hok : ∀ x ∈ bs.map Chunk.one, x.ok := by simp [Chunk.ok]
  rw [feed_eq_flatMap] at hp hlen
  obtain ⟨a, hrun⟩ := run_dinit_chunks ht hc hok hp
  rw [hlen, flatMap_bytes_map_one] at hrun
  exact ⟨a, hrun⟩

/-- FINAL on a fed digest leaves its checksum in RESULT and returns it. -/
theorem run_final {s : State} {t : Table} {c : CtxNum} {r : Word} {rest : List Input}
    (ht : s.table = some t) (hc : c.toNat < s.params.nCtx)
    (hd : s.ctx c = some { reg := r, poison := false })
    (hp : s.pending = (final s.params c).map Input.access ++ rest) :
    ∃ u : State, Host.Core.run core 2 s = .next u ∧
      u.result = finFn s.W s.refin s.refout s.xorout r ∧ u.pending = rest ∧
      u.trace = s.trace ++ [.ack] ++ [.data u.result] := by
  have hfin := (step_command (i := .fin c) rfl hp).trans
    (execFin_live (s := (s.received _ _).respond .ack) ht hc hd)
  exact ⟨_, run_two_of_steps hfin (step_rd_result rfl), rfl, rfl, rfl⟩

/-- Settles O55: DINIT and FEED leave the fold over the bytes, FINAL finalizes and returns it. -/
theorem checksumIsFinalizeUpdateInit : Obligations.ChecksumIsFinalizeUpdateInit := by
  intro s t c bs rest ht hc hp
  rw [checksum, List.map_append, List.append_assoc] at hp
  obtain ⟨a, hfed⟩ := run_digest_feed ht hc hp
  obtain ⟨u, hfinal, hresult, hpending, htrace⟩ := run_final
    (s := fedState s c ((final s.params c).map .access ++ rest) _ a _) ht hc
    (fedState_ctx s c _ _ a _) rfl
  refine ⟨u, (run_add_of_next hfed 2).trans hfinal, hresult, hpending, ?_⟩
  rw [htrace, List.replicate_succ' (n := bs.length + 1), ← List.append_assoc]
  rfl

end Sys2Proof.Machine

/-! # Proofs of the statements about register accesses (42_register_access.md)

First what the step on a legal access of a register is, then the writes, then the reads, then the
fields of STATUS. -/

namespace Sys2Proof.Machine

open Sys2Proof.Claims

/-! ## The step on a legal access -/

/-- A legal write of a register is one step of its write rule. -/
theorem step_writeReg {s : State} {r : Reg} {v : Word} {rest : List Input}
    (hp : s.pending = .access (.write (s.params.base + r.offset) 32 v) :: rest) :
    step s = writeReg r v
      (s.received (.access (.write (s.params.base + r.offset) 32 v)) rest) :=
  (step_cons hp).trans (busWrite_reg (s.received _ rest) r v)

/-- A write is served as its write rule serves it, the access received. -/
theorem serves_write {s u : State} {r : Reg} {v : Word} {x : Response}
    (h : ∀ rest, writeReg r v
        (s.received (.access (.write (s.params.base + r.offset) 32 v)) rest) =
      .next { u with pending := rest, pc := s.pc + 1, trace := s.trace ++ [x] }) :
    serves s (.write (s.params.base + r.offset) 32 v) x u :=
  fun rest hp => (step_writeReg hp).trans (h rest)

/-- A legal read returns the register and changes nothing of the block (R170). -/
theorem serves_read {s : State} {r : Reg} {v : Word} (h : readReg r s = some v) :
    serves s (.read (s.params.base + r.offset) 32) (.data v) s := fun rest hp =>
  (step_cons hp).trans
    (busRead_reg (s := s.received _ rest) ((readReg_received r s _ rest).trans h))

/-! ## Writes -/

/-- Settles O7: the write of CMD is answered first, and the decoder then chooses between the command
and the recorded error. -/
theorem stepRunsTheDecodedCommand : Obligations.StepRunsTheDecodedCommand := by
  intro s v rest hp
  have hstep := step_writeReg (r := .cmd) hp
  exact ⟨fun i hd => hstep.trans (writeCmd_ok hd _), fun e hd => hstep.trans (writeCmd_error hd _)⟩

/-- Settles O25: each write is its store and then `destroyEngine`; the dropped bits of CTRL and WIDTH
are those above their fields. -/
theorem specificationWritesDestroyTheEngine : Obligations.SpecificationWritesDestroyTheEngine := by
  intro s v d
  have hctrl : v.setWidth 2 = v.extractLsb' 0 2 := BitVec.setWidth_eq_extractLsb' (by decide)
  have hwidth : v.setWidth 6 = v.extractLsb' 0 6 := BitVec.setWidth_eq_extractLsb' (by decide)
  rw [← hctrl, ← hwidth]
  refine ⟨serves_write (r := .ctrl) fun _ => rfl, serves_write (r := .width) fun _ => rfl,
    serves_write (r := .poly) fun _ => rfl, serves_write (r := .init) fun _ => rfl,
    serves_write (r := .xorout) fun _ => rfl, rfl, fun c => ?_⟩
  have hctx : d.ctx c = none := ctx_destroyEngine s c
  exact ⟨congrArg Option.isSome hctx, poison_of_ctx_none hctx⟩

/-- Settles O26: ARG is stored, and bit 1 alone decides what a write of STATUS does. -/
theorem argAndStatusWrites : Obligations.ArgAndStatusWrites := by
  refine fun s v => ⟨serves_write (r := .arg) fun _ => rfl,
    serves_write (r := .status) fun rest => ?_⟩
  rw [writeReg, writeStatus]
  split <;> rfl

/-! ## Reads -/

/-- Settles O27: each of the seven is readable in every state. -/
theorem readsReturnTheirRegisters : Obligations.ReadsReturnTheirRegisters := fun _ =>
  ⟨serves_read (r := .ctrl) rfl, serves_read (r := .width) rfl, serves_read (r := .poly) rfl,
    serves_read (r := .init) rfl, serves_read (r := .xorout) rfl, serves_read (r := .arg) rfl,
    serves_read (r := .result) rfl⟩

/-! ## The fields of STATUS -/

/-- STATUS without its LIVE bits. -/
def statusFlags (valid err : Bool) (code : BitVec 4) : Word :=
  bit valid ||| bit err <<< 1 ||| code.setWidth 32 <<< 4

theorem statusFlags_fields (valid err : Bool) (code : BitVec 4) :
    (statusFlags valid err code).getLsbD 0 = valid ∧
    (statusFlags valid err code).getLsbD 1 = err ∧
    (statusFlags valid err code).extractLsb' 2 2 = 0#2 ∧
    (statusFlags valid err code).extractLsb' 4 4 = code ∧
    (statusFlags valid err code).extractLsb' 8 8 = 0#8 ∧
    (statusFlags valid err code).extractLsb' 16 16 = 0#16 := by
  revert valid err code
  decide

theorem statusWord_eq (s : State) :
    statusWord s =
      statusFlags s.tableValid s.err s.errCode.code ||| liveBits s s.params.nCtx := rfl

/-- Below bit 16 STATUS shows its flags alone. -/
theorem statusWord_getLsbD_low (s : State) {k : Nat} (hk : k < 16) :
    (statusWord s).getLsbD k = (statusFlags s.tableValid s.err s.errCode.code).getLsbD k := by
  rw [statusWord_eq, BitVec.getLsbD_or, liveBits_low s _ hk, Bool.or_false]

theorem statusWord_extractLsb'_low (s : State) {start len : Nat} (h : start + len ≤ 16) :
    (statusWord s).extractLsb' start len =
      (statusFlags s.tableValid s.err s.errCode.code).extractLsb' start len := by
  refine BitVec.eq_of_getLsbD_eq fun k hk => ?_
  rw [BitVec.getLsbD_extractLsb', BitVec.getLsbD_extractLsb', statusWord_getLsbD_low s (by omega)]

/-- From bit 16 up STATUS shows LIVE alone, for the contexts of the instance. -/
theorem statusWord_getLsbD_high (s : State) (c : CtxNum) :
    (statusWord s).getLsbD (16 + c.toNat) = (decide (c.toNat < s.params.nCtx) && s.live c) := by
  obtain ⟨-, -, -, -, -, hflags⟩ := statusFlags_fields s.tableValid s.err s.errCode.code
  have hflag : (statusFlags s.tableValid s.err s.errCode.code).getLsbD (16 + c.toNat) = false := by
    simpa [c.isLt] using congrArg (fun w => w.getLsbD c.toNat) hflags
  have hctx : s.params.nCtx ≤ 16 := s.params.lastCtx.isLt
  rw [statusWord_eq, BitVec.getLsbD_or, hflag, liveBits_high s hctx c.isLt, Bool.false_or,
    BitVec.ofNat_toNat, BitVec.setWidth_eq]

/-- Settles O29: the flags stand below bit 16 and the LIVE bits above. -/
theorem statusReportsItsFields : Obligations.StatusReportsItsFields := by
  intro s
  obtain ⟨hvalid, herr, hrsv, hcode, hrsv', -⟩ :=
    statusFlags_fields s.tableValid s.err s.errCode.code
  refine ⟨statusWord s, serves_read (r := .status) rfl,
    (statusWord_getLsbD_low s (by decide)).trans hvalid,
    (statusWord_getLsbD_low s (by decide)).trans herr,
    (statusWord_extractLsb'_low s (by decide)).trans hrsv, ?_,
    (statusWord_extractLsb'_low s (by decide)).trans hrsv', statusWord_getLsbD_high s⟩
  rw [statusWord_extractLsb'_low s (by decide), hcode]
  cases s.errCode <;> rfl

end Sys2Proof.Machine

/-! # Proofs of the statements about exceptions (60_exceptions.md)

First the update commands as writes of one context, then the error record against the checks of
R201, then the error response of the bus. -/

namespace Sys2Proof.Machine

open Sys2Proof.Claims

/-! ## Update commands -/

/-- The digest d after the bytes bs; a poisoned one skips them (R125). -/
def fedDigest (t : Table) (s : State) (d : Digest) (bs : List Byte) : Digest :=
  if d.poison then d else { d with reg := updateBytes t s.refin d.reg bs }

/-- The digest d after UPDV: fed, poisoned, or skipped (R124, R136). -/
def validatedDigest (t : Table) (s : State) (d : Digest) : Digest :=
  if d.poison then d
  else match validateByte s.params.validate s.arg with
    | some b => { d with reg := crcStep t s.refin d.reg b }
    | none => { d with poison := true }

/-- The digest d after an update command; d itself for every other command. -/
def updatedDigest (i : Instr) (t : Table) (s : State) (d : Digest) : Digest :=
  match i with
  | .upd _ b => fedDigest t s d [b]
  | .updn _ n => fedDigest t s d (argBytes s.arg n)
  | .updv _ => validatedDigest t s d
  | _ => d

section

variable {s : State} {t : Table} {c : CtxNum} {d : Digest} (ht : s.table = some t)
  (hc : c.toNat < s.params.nCtx) (hd : s.ctx c = some d)
include ht hc hd

theorem feedBytes_eq_setCtx (bs : List Byte) :
    feedBytes c bs s = .next (s.setCtx c (some (fedDigest t s d bs))) := by
  rw [feedBytes_live ht hc hd, fedDigest]
  split
  · rw [setCtx_of_ctx hd]
  · rfl

theorem execUpdv_eq_setCtx :
    execUpdv c s = .next (s.setCtx c (some (validatedDigest t s d))) := by
  unfold validatedDigest
  split
  next hp => rw [execUpdv_poisoned ht hc hd hp, setCtx_of_ctx hd]
  next hp =>
    have hp := Bool.eq_false_iff.mpr hp
    split
    next hv => exact execUpdv_accept ht hc hd hp hv
    next hv => exact execUpdv_reject ht hc hd hp hv

/-- On a live context an update command writes that context's digest and nothing else. -/
theorem exec_isUpdate {i : Instr} (hi : isUpdate i c) :
    exec i s = .next (s.setCtx c (some (updatedDigest i t s d))) := by
  rcases hi with ⟨b, rfl⟩ | ⟨n, rfl⟩ | rfl
  · exact feedBytes_eq_setCtx ht hc hd _
  · exact feedBytes_eq_setCtx ht hc hd _
  · exact execUpdv_eq_setCtx ht hc hd

end

/-- What an update command makes of a digest does not depend on the other contexts. -/
theorem updatedDigest_setCtx (i : Instr) (t : Table) (s : State) (k : CtxNum) (x : Option Digest)
    (d : Digest) : updatedDigest i t (s.setCtx k x) d = updatedDigest i t s d := rfl

/-- The second of two updates finds its context as the first found it. -/
theorem execAll_isUpdate_pair {s : State} {t : Table} {c k : CtxNum} {d e : Digest} {i j : Instr}
    (ht : s.table = some t) (hc : c.toNat < s.params.nCtx) (hk : k.toNat < s.params.nCtx)
    (hd : s.ctx c = some d) (he : s.ctx k = some e) (hne : c ≠ k) (hi : isUpdate i c)
    (hj : isUpdate j k) :
    execAll [i, j] s = .next ((s.setCtx c (some (updatedDigest i t s d))).setCtx k
      (some (updatedDigest j t s e))) := by
  have hfirst := exec_isUpdate ht hc hd hi
  have hsecond := exec_isUpdate (s := s.setCtx c (some (updatedDigest i t s d))) ht hk
    ((ctx_setCtx_of_ne s _ hne.symm).trans he) hj
  rw [updatedDigest_setCtx] at hsecond
  exact execAll_pair hfirst hsecond

/-- Settles O24: each order writes the same two digests, and writes of two contexts commute. -/
theorem updatesOfTwoContextsCommute : Obligations.UpdatesOfTwoContextsCommute := by
  intro s t c k i j ht hc hk hlc hlk hne hi hj
  obtain ⟨d, hd⟩ := (live_eq_true_iff s c).mp hlc
  obtain ⟨e, he⟩ := (live_eq_true_iff s k).mp hlk
  refine ⟨_, execAll_isUpdate_pair ht hc hk hd he hne hi hj, ?_⟩
  rw [setCtx_comm s _ _ hne]
  exact execAll_isUpdate_pair ht hk hc he hd hne.symm hj hi

/-! ## The error record -/

/-- A command that names a context and fails no check has an engine, a context that exists, and a
live digest where it needs one (R201 steps 4 to 6). -/
theorem checks_of_commandError_none {i : Instr} {c : CtxNum} {s : State}
    (hi : usesCtx i = some c) (h : commandError i s = none) :
    ∃ t, s.table = some t ∧ c.toNat < s.params.nCtx ∧
      (needsLive i = true → ∃ d, s.ctx c = some d) := by
  rw [commandError_of_usesCtx hi] at h
  obtain ⟨ht, hc, hlive⟩ : s.table ≠ none ∧ c.toNat < s.params.nCtx ∧
      (needsLive i = true → s.ctx c ≠ none) := by
    simpa [State.tableValid, State.live, ite_eq_iff] using h
  obtain ⟨t, ht⟩ := Option.ne_none_iff_exists'.mp ht
  exact ⟨t, ht, hc, fun hl => Option.ne_none_iff_exists'.mp (hlive hl)⟩

/-- The command answers alike whatever the error record holds: it reads neither ERR nor ERRCODE and
writes neither. -/
def ignoresRecord (i : Instr) (s : State) : Prop :=
  ∃ u : State, ∀ e k, exec i { s with err := e, errCode := k } =
    .next { u with err := e, errCode := k }

/-- An update command that fails no check writes one digest, from values other than the record. -/
theorem ignoresRecord_of_isUpdate {i : Instr} {c : CtxNum} {s : State} (hi : isUpdate i c)
    (h : commandError i s = none) : ignoresRecord i s := by
  have huses : usesCtx i = some c := by rcases hi with ⟨b, rfl⟩ | ⟨n, rfl⟩ | rfl <;> rfl
  have hneeds : needsLive i = true := by rcases hi with ⟨b, rfl⟩ | ⟨n, rfl⟩ | rfl <;> rfl
  obtain ⟨t, ht, hc, hlive⟩ := checks_of_commandError_none huses h
  obtain ⟨d, hd⟩ := hlive hneeds
  exact ⟨s.setCtx c (some (updatedDigest i t s d)), fun e k =>
    exec_isUpdate (s := { s with err := e, errCode := k }) ht hc hd hi⟩

/-- A command that fails no check executes alike whatever the error record holds (R204). -/
theorem ignoresRecord_of_commandError_none {i : Instr} {s : State} (h : commandError i s = none) :
    ignoresRecord i s := by
  cases i with
  | nop => exact ⟨s, fun _ _ => rfl⟩
  | build =>
    have hW : 1 ≤ s.W ∧ s.W ≤ 32 := by simpa [commandError] using h
    exact ⟨{ s with table := some (tableOf (polyx s.poly s.W s.refin) s.refin) }, fun e k =>
      execBuild_of_width (s := { s with err := e, errCode := k }) hW⟩
  | rdtbl b =>
    have hvalid : s.table ≠ none := by simpa [commandError, usesCtx, State.tableValid] using h
    obtain ⟨t, ht⟩ := Option.ne_none_iff_exists'.mp hvalid
    exact ⟨{ s with result := t.entryAt b }, fun e k =>
      withEngine_some (s := { s with err := e, errCode := k }) ht _⟩
  | dinit c =>
    obtain ⟨t, ht, hc, -⟩ := checks_of_commandError_none rfl h
    exact ⟨createDigest s c (initFn s.W s.refin s.init), fun e k =>
      execDinit_ok (s := { s with err := e, errCode := k }) ht hc⟩
  | dinitc c =>
    obtain ⟨t, ht, hc, -⟩ := checks_of_commandError_none rfl h
    exact ⟨createDigest s c (initFn s.W s.refin s.arg), fun e k =>
      execDinitc_ok (s := { s with err := e, errCode := k }) ht hc⟩
  | ldreg c =>
    obtain ⟨t, ht, hc, -⟩ := checks_of_commandError_none rfl h
    exact ⟨createDigest s c s.arg, fun e k =>
      execLdreg_ok (s := { s with err := e, errCode := k }) ht hc⟩
  | upd c b => exact ignoresRecord_of_isUpdate (.inl ⟨b, rfl⟩) h
  | updn c n => exact ignoresRecord_of_isUpdate (.inr (.inl ⟨n, rfl⟩)) h
  | updv c => exact ignoresRecord_of_isUpdate (.inr (.inr rfl)) h
  | fin c =>
    obtain ⟨t, ht, hc, hlive⟩ := checks_of_commandError_none rfl h
    obtain ⟨d, hd⟩ := hlive rfl
    exact ⟨State.setCtx { s with
        result := if d.poison then 0 else finFn s.W s.refin s.refout s.xorout d.reg } c none,
      fun e k => execFin_live (s := { s with err := e, errCode := k }) ht hc hd⟩
  | rdreg c =>
    obtain ⟨t, ht, hc, hlive⟩ := checks_of_commandError_none rfl h
    obtain ⟨d, hd⟩ := hlive rfl
    exact ⟨{ s with result := if d.poison then 0 else d.reg }, fun e k =>
      execRdreg_live (s := { s with err := e, errCode := k }) ht hc hd⟩

/-- A command that fails no check answers and leaves the error record as it was (R201 step 7). -/
theorem exec_of_commandError_none {i : Instr} {s : State} (h : commandError i s = none) :
    ∃ u, exec i s = .next u ∧ u.err = s.err ∧ u.errCode = s.errCode := by
  obtain ⟨u, hu⟩ := ignoresRecord_of_commandError_none h
  exact ⟨{ u with err := s.err, errCode := s.errCode }, hu s.err s.errCode, rfl, rfl⟩

/-- Settles O19: the decoder makes the first check of R201 and the command makes the others. -/
theorem firstFailingCheckIsRecorded : Obligations.FirstFailingCheckIsRecorded := by
  intro s v
  cases hd : decode v with
  | error e =>
    have hw : wordError v s = some .illegalCmd := by simp [wordError, hd]
    rw [hw, writeCmd_error hd]
    refine ⟨fun code hcode => ?_, nofun⟩
    obtain rfl := Option.some.inj hcode
    rfl
  | ok i =>
    have hw : wordError v s = commandError i s := by simp [wordError, hd]
    rw [hw, writeCmd_ok hd]
    refine ⟨fun code hcode => exec_of_commandError hcode, fun hnone => ?_⟩
    obtain ⟨u, hu, hrecord⟩ := exec_of_commandError_none hnone
    exact ⟨i, u, rfl, rfl, hu, hrecord⟩

/-- Settles O20: the checks do not look at the error record. A command that fails one records it on
the record it finds, and one that fails none leaves the record out. -/
theorem errorsDoNotStopTheBlock : Obligations.ErrorsDoNotStopTheBlock := by
  intro i s
  cases hcheck : commandError i s with
  | some code =>
    have hrecord := exec_of_commandError hcheck
    exact ⟨fun e k => ⟨raiseCmdError code s, true, if e then k else code, hrecord,
        exec_of_commandError (s := { s with err := e, errCode := k }) hcheck⟩,
      fun herr => ⟨_, hrecord, rfl, if_pos herr⟩⟩
  | none =>
    refine ⟨fun e k => ?_, fun herr => ?_⟩
    · obtain ⟨u, hu⟩ := ignoresRecord_of_commandError_none hcheck
      exact ⟨{ u with err := s.err, errCode := s.errCode }, e, k, hu s.err s.errCode, hu e k⟩
    · obtain ⟨u, hu, hsame, hcode⟩ := exec_of_commandError_none hcheck
      exact ⟨u, hu, hsame.trans herr, hcode⟩

/-! ## The error response -/

/-- An access is answered and nothing else, or it is a write that completes (R170, R178). -/
theorem Served.respond_or_ack {s u : State} {a : Access} (h : Served s (.access a) u) :
    (∃ r, u = s.respond r) ∨ u.trace = s.trace ++ [.ack] := by
  cases h with
  | observe a r => exact .inl ⟨r, rfl⟩
  | spec r v x hx => exact .inr (by rw [hx.frame]; rfl)
  | command v i _ hd hx => exact .inr (by rw [exec_frame hx]; rfl)
  | _ => exact .inr rfl

/-- Settles O31: what completes has another response. -/
theorem busErrorChangesNothing : Obligations.BusErrorChangesNothing := by
  intro s s' a rest hp h htrace
  rcases (step_served_cons hp h).respond_or_ack with ⟨r, rfl⟩ | hack
  · obtain rfl : r = .busError := List.singleton_inj.mp (List.append_cancel_left htrace)
    rfl
  · exact absurd (List.append_cancel_left (hack.symm.trans htrace)) (by decide)

end Sys2Proof.Machine

/-! # Proofs of the statements about reset (70_reset_and_hazards.md)

The LIVE bits of a block without a digest, then the statements. -/

namespace Sys2Proof.Machine

/-- The LIVE bits of STATUS are 0 while no context is live (R182). -/
theorem liveBits_eq_zero {s : State} (h : ∀ c, s.live c = false) (n : Nat) : liveBits s n = 0 := by
  induction n with
  | zero => rfl
  | succ n ih => simp [liveBits, ih, h, bit]

theorem live_resetFor (p : Params) (c : CtxNum) : (State.resetFor p).live c = false :=
  congrArg Option.isSome (ctx_resetFor p c)

/-- STATUS after reset: its flags are 0 and no context is live (R231). -/
theorem statusWord_resetFor (p : Params) : statusWord (State.resetFor p) = 0 := by
  have hflags : statusFlags false false 0 = 0 := by decide
  rw [statusWord_eq, liveBits_eq_zero (live_resetFor p)]
  exact BitVec.or_zero.trans hflags

/-- Settles O40: the registers are read off the reset state; STATUS and what the contexts hold follow
from no context having a digest. -/
theorem resetStateIsTheTable : Obligations.ResetStateIsTheTable := by
  intro p
  refine ⟨rfl, rfl, rfl, rfl, rfl, rfl, rfl, rfl, congrArg some (statusWord_resetFor p), rfl,
    fun c => ⟨?_, live_resetFor p c, poison_of_ctx_none (ctx_resetFor p c)⟩⟩
  exact congrArg (Option.map Digest.reg) (ctx_resetFor p c)

/-- Settles O41: the step serves the reset input, which moves no index (R245). -/
theorem resetInputGivesTheResetState : Obligations.ResetInputGivesTheResetState :=
  fun _ _ hp => step_cons hp

/-- Settles O42: after reset there is no engine (R201 step 4) and W is 0 (R201 step 3). -/
theorem afterResetCommandsNeedABuild : Obligations.AfterResetCommandsNeedABuild := by
  refine fun p i => ⟨fun hnop hbuild => exec_of_commandError ?_, exec_of_commandError ?_, rfl⟩
  · have htable : (State.resetFor p).tableValid = false := rfl
    rw [commandError, if_neg hnop, if_neg hbuild, if_pos htable]
  · have hW : (State.resetFor p).W = 0 := rfl
    simp [commandError, hW]

end Sys2Proof.Machine
